-- ==== Sys2Proof/Word.lean ====
section
/-! DEFINITION. The value types every rule uses (spec 00_scope.md R12, R13): levels, directions, the
acknowledge flag, bytes and command words. A `Bit` of the spec is a `Bool` (0 = false, 1 = true). -/

namespace Sys2Proof

/-- Eight unsigned bits, bit 0 least significant (R12). -/
abbrev Byte := BitVec 8

/-- A 32-bit command word or host register (R11 `XLEN_CMD`). -/
abbrev Word := BitVec 32

/-- R13: `L` is the line pulled to ground, `H` the line released and pulled up. -/
inductive Level where
  | L
  | H
  deriving DecidableEq, Repr, Inhabited

/-- R13: the direction of the data line. -/
inductive Dir where
  | OUT
  | IN
  deriving DecidableEq, Repr, Inhabited

/-- R13, R26: the document's AckFlag. -/
inductive AckFlag where
  | ACK
  | NACK
  deriving DecidableEq, Repr, Inhabited

/-- R53: the direction bit of an address byte, `0 = write`, `1 = read`. -/
inductive Access where
  | write
  | read
  deriving DecidableEq, Repr, Inhabited

/-- The named delay counts of R7; an event of the trace names one of them (R33). -/
inductive DelayName where
  | T_SU_STA
  | T_HD_STA
  | T_SU_STO
  | T_BUF
  | T_LOW
  | T_HIGH
  | T_ACK_LOW_1
  | T_ACK_LOW_2
  | T_ACK_HIGH_1
  | T_ACK_HIGH_2
  | T_SETTLE
  | T_HIGH_REM
  deriving DecidableEq, Repr, Inhabited

end Sys2Proof
end

