-- ==== Sys2Proof/Syntax.lean ====
section
/-! DEFINITION. The seven commands of the block (spec 30_encoding.md R55), one constructor per row of
spec/opcode_table.json, with the operands a command uses. A field the command ignores (R57) is no part of the
command: it stays in `CMDR`. -/

namespace Sys2Proof

inductive Instr where
  /-- `Start()`, R80. -/
  | start
  /-- `Stop()`, R81. -/
  | stop
  /-- `TransmitByte(x)`, `x = TD`, R75. -/
  | txbyte (x : Byte)
  /-- `ReceiveByte(p)`, `p = TD[0]`, R77. -/
  | rxbyte (p : AckFlag)
  /-- `AddressByte(sa, dir)`, `sa = SA`, `dir = TD[0]`, R82; `sa[0]` is kept here (log 16), its meaning ignores it (R53). -/
  | addr (sa : Byte) (dir : Access)
  /-- `WriteRegister(sa, ra, d)`, R85. -/
  | wrreg (sa : Byte) (ra : Byte) (d : Byte)
  /-- `ReadRegister(sa, ra)`, R86. -/
  | rdreg (sa : Byte) (ra : Byte)
  deriving DecidableEq, Repr

end Sys2Proof
end

