-- ==== Sys2Proof/WellFormed.lean ====
section
/-! DEFINITION. Which command words are commands (`Legal`, spec 30_encoding.md R55) and which assembler lines
are well formed (R59). Every term of `Instr` is well formed: its operand types have exactly the values that
the fields of format C admit, and the spec restricts no operand (R46, R53, R57). What can be ill formed is a
command word (a reserved opcode, R56) and a line of source text (a byte operand outside 0..255, R59). -/

namespace Sys2Proof

/-- R55: `Legal(opc)` "is true exactly for the seven `OPC` values". -/
def legalOpcode (opc : Byte) : Bool :=
  decide (1 ≤ opc.toNat ∧ opc.toNat ≤ 7)

/-- A line of the assembler as its writer gives it: byte operands are numbers (R59). -/
inductive AsmLine where
  | start
  | stop
  | txbyte (d : Nat)
  | rxbyte (p : AckFlag)
  | addr (sa : Nat) (dir : Access)
  | wrreg (sa : Nat) (ra : Nat) (d : Nat)
  | rdreg (sa : Nat) (ra : Nat)
  deriving DecidableEq, Repr

/-- R59: "a byte operand is decimal or `0x` hexadecimal in 0..255". -/
def AsmLine.wellFormed : AsmLine → Bool
  | .start => true
  | .stop => true
  | .txbyte d => decide (d < 256)
  | .rxbyte _ => true
  | .addr sa _ => decide (sa < 256)
  | .wrreg sa ra d => decide (sa < 256) && decide (ra < 256) && decide (d < 256)
  | .rdreg sa ra => decide (sa < 256) && decide (ra < 256)

/-- The command a line stands for; an operand outside its range has no meaning here, so `wellFormed` is checked first. -/
def AsmLine.toInstr : AsmLine → Instr
  | .start => .start
  | .stop => .stop
  | .txbyte d => .txbyte (BitVec.ofNat 8 d)
  | .rxbyte p => .rxbyte p
  | .addr sa dir => .addr (BitVec.ofNat 8 sa) dir
  | .wrreg sa ra d => .wrreg (BitVec.ofNat 8 sa) (BitVec.ofNat 8 ra) (BitVec.ofNat 8 d)
  | .rdreg sa ra => .rdreg (BitVec.ofNat 8 sa) (BitVec.ofNat 8 ra)

end Sys2Proof
end

