-- ==== Sys2Proof/Decode.lean ====
section
/-! DEFINITION. Decoding of a command word (spec 30_encoding.md R52 to R57), total and rejecting by name, and
after it the encoder and the assembler (R59). -/

namespace Sys2Proof

/-! ## Fields of format C (R52) -/

/-- `OPC`, bits 31:24. -/
def fieldOpc (w : Word) : Byte := w.extractLsb' 24 8

/-- `A`, bits 23:16, the slave address byte. -/
def fieldA (w : Word) : Byte := w.extractLsb' 16 8

/-- `B`, bits 15:8, the register address. -/
def fieldB (w : Word) : Byte := w.extractLsb' 8 8

/-- `C`, bits 7:0, the data byte. -/
def fieldC (w : Word) : Byte := w.extractLsb' 0 8

/-- R13, R53: the one-bit encoding of an acknowledge, `ACK = 0`, `NACK = 1`. -/
def ackOfBit (b : Bool) : AckFlag := if b then .NACK else .ACK

def AckFlag.toBit : AckFlag → Bool
  | .ACK => false
  | .NACK => true

/-- R53: the one-bit encoding of the direction, `0 = write`, `1 = read`. -/
def accessOfBit (b : Bool) : Access := if b then .read else .write

def Access.toBit : Access → Bool
  | .write => false
  | .read => true

/-! ## Decode (R54) -/

/-- Why a word is no command. -/
inductive DecodeError where
  /-- R56: `OPC` is `0x00` or one of `0x08` to `0xFF`. -/
  | reservedOpcode (opc : Byte)
  deriving DecidableEq, Repr

/-- R54: "Decoding is total on all 2^32 words and depends on `OPC` alone"; the operands are the fields of R53. -/
def decode (w : Word) : Except DecodeError Instr :=
  if fieldOpc w = 0x01#8 then .ok .start
  else if fieldOpc w = 0x02#8 then .ok .stop
  else if fieldOpc w = 0x03#8 then .ok (.txbyte (fieldC w))
  else if fieldOpc w = 0x04#8 then .ok (.rxbyte (ackOfBit ((fieldC w).getLsbD 0)))
  else if fieldOpc w = 0x05#8 then .ok (.addr (fieldA w) (accessOfBit ((fieldC w).getLsbD 0)))
  else if fieldOpc w = 0x06#8 then .ok (.wrreg (fieldA w) (fieldB w) (fieldC w))
  else if fieldOpc w = 0x07#8 then .ok (.rdreg (fieldA w) (fieldB w))
  else .error (.reservedOpcode (fieldOpc w))

/-- A word as spec/opcode_table.json numbers its bits. A command is one 32-bit word written whole (R42, R51): with
`nbits` above 32 it is none. Bits above `nbits` are zero. -/
def tableWord (nbits w : Nat) : Word := BitVec.ofNat 32 (w % 2 ^ nbits)

/-- The command the decoder reads from a word of the opcode table. -/
def decodeTableWord (nbits w : Nat) : Option Instr :=
  if nbits ≤ 32 then
    match decode (tableWord nbits w) with
    | .ok i => some i
    | .error _ => none
  else none

/-! ## Encode (R52, R55, R59) -/

/-- Format C from its four byte fields (R52: pattern `oooooooo aaaaaaaa bbbbbbbb cccccccc`). -/
def formatC (opc a b c : Byte) : Word := opc ++ a ++ b ++ c

/-- R53: a one-bit operand stands in `C[0]`; the ignored bits `C[7:1]` are written as zero (R59). -/
def oneBitField (b : Bool) : Byte := if b then 0x01#8 else 0x00#8

/-- The word of a command; "The assembler writes ignored fields as zero" (R59). -/
def encode : Instr → Word
  | .start => formatC 0x01 0 0 0
  | .stop => formatC 0x02 0 0 0
  | .txbyte x => formatC 0x03 0 0 x
  | .rxbyte p => formatC 0x04 0 0 (oneBitField p.toBit)
  | .addr sa dir => formatC 0x05 sa 0 (oneBitField dir.toBit)
  | .wrreg sa ra d => formatC 0x06 sa ra d
  | .rdreg sa ra => formatC 0x07 sa ra 0

/-- The bits of a word that its command reads (R55, the complement of the column "ignored fields"; `A[0]` is kept in
the operand, log 16, whose meaning ignores it, R53). -/
def usedBits : Instr → Word
  | .start => 0xFF000000#32
  | .stop => 0xFF000000#32
  | .txbyte _ => 0xFF0000FF#32
  | .rxbyte _ => 0xFF000001#32
  | .addr _ _ => 0xFFFF0001#32
  | .wrreg _ _ _ => 0xFFFFFFFF#32
  | .rdreg _ _ => 0xFFFFFF00#32

/-- R59: the word of a well-formed line, none of an ill-formed one. -/
def assemble (a : AsmLine) : Option Word :=
  if a.wellFormed then some (encode a.toInstr) else none

/-! ## The text syntax of R59 -/

/-- "`;` starts a comment". -/
def dropComment (cs : List Char) : List Char := cs.takeWhile (· != ';')

def dropSpaces (cs : List Char) : List Char := cs.dropWhile (· == ' ')

def trimSpaces (cs : List Char) : List Char := (dropSpaces (dropSpaces cs).reverse).reverse

/-- "operands separated by commas". -/
def splitCommas : List Char → List (List Char)
  | [] => [[]]
  | c :: cs =>
    match splitCommas cs with
    | [] => [[c]]
    | t :: ts => if c == ',' then [] :: t :: ts else (c :: t) :: ts

def digitValue (base : Nat) (c : Char) : Option Nat :=
  let v :=
    if '0' ≤ c ∧ c ≤ '9' then c.toNat - '0'.toNat
    else if 'a' ≤ c ∧ c ≤ 'f' then c.toNat - 'a'.toNat + 10
    else if 'A' ≤ c ∧ c ≤ 'F' then c.toNat - 'A'.toNat + 10
    else base
  if v < base then some v else none

def digits (base : Nat) : List Char → Nat → Option Nat
  | [], acc => some acc
  | c :: cs, acc => (digitValue base c).bind fun v => digits base cs (acc * base + v)

/-- "a byte operand is decimal or `0x` hexadecimal"; the range 0..255 is `AsmLine.wellFormed`. -/
def parseNumber : List Char → Option Nat
  | [] => none
  | '0' :: 'x' :: c :: cs => digits 16 (c :: cs) 0
  | c :: cs => digits 10 (c :: cs) 0

def parsePolicy (cs : List Char) : Option AckFlag :=
  if cs = ['A', 'C', 'K'] then some .ACK else if cs = ['N', 'A', 'C', 'K'] then some .NACK else none

def parseAccess (cs : List Char) : Option Access :=
  if cs = ['W'] then some .write else if cs = ['R'] then some .read else none

/-- A mnemonic and its operands, as R59's table pairs them. -/
def parseOperands (mnemonic : List Char) (operands : List (List Char)) : Option AsmLine :=
  if mnemonic = ['S', 'T', 'A', 'R', 'T'] then
    match operands with
    | [] => some .start
    | _ => none
  else if mnemonic = ['S', 'T', 'O', 'P'] then
    match operands with
    | [] => some .stop
    | _ => none
  else if mnemonic = ['T', 'X', 'B', 'Y', 'T', 'E'] then
    match operands with
    | [d] => (parseNumber d).map .txbyte
    | _ => none
  else if mnemonic = ['R', 'X', 'B', 'Y', 'T', 'E'] then
    match operands with
    | [p] => (parsePolicy p).map .rxbyte
    | _ => none
  else if mnemonic = ['A', 'D', 'D', 'R'] then
    match operands with
    | [sa, dir] => (parseNumber sa).bind fun a => (parseAccess dir).map (.addr a)
    | _ => none
  else if mnemonic = ['W', 'R', 'R', 'E', 'G'] then
    match operands with
    | [sa, ra, d] =>
      (parseNumber sa).bind fun a => (parseNumber ra).bind fun r => (parseNumber d).map (.wrreg a r)
    | _ => none
  else if mnemonic = ['R', 'D', 'R', 'E', 'G'] then
    match operands with
    | [sa, ra] => (parseNumber sa).bind fun a => (parseNumber ra).map (.rdreg a)
    | _ => none
  else none

/-- One line of text: `some []` for a line that holds no command, `some [a]` for a well-formed one, `none` for an
error. "One command per line". -/
def parseLine (cs : List Char) : Option (List AsmLine) :=
  match trimSpaces (dropComment cs) with
  | [] => some []
  | t =>
    let mnemonic := t.takeWhile (· != ' ')
    let rest := dropSpaces (t.dropWhile (· != ' '))
    let operands := if rest.isEmpty then [] else (splitCommas rest).map trimSpaces
    (parseOperands mnemonic operands).bind fun a => if a.wellFormed then some [a] else none

/-- "A program is a list of commands" (R59): the words of a text, given as its lines. -/
def assembleText : List (List Char) → Option (List Word)
  | [] => some []
  | line :: lines =>
    (parseLine line).bind fun as =>
      (assembleText lines).map fun ws => (as.map fun a => encode a.toInstr) ++ ws

end Sys2Proof
end

