-- ==== Sys2Proof/Config.lean ====
section
/-! DEFINITION. What an implementation fixes (the BusConfiguration of spec 00_scope.md R7 to R10) and the free
values: the levels the environment holds on the wires when nothing is scheduled. Nothing here has a value
that a proof could use. -/

namespace Sys2Proof

/-- R7: the BusConfiguration, every field an open parameter (D28). `T_HIGH_REM` is computed, so it is no field. -/
structure BusConfiguration where
  fSys : Nat
  fBus : Nat
  osr : Nat
  tSuSta : Nat
  tHdSta : Nat
  tSuSto : Nat
  tBuf : Nat
  tLow : Nat
  tHigh : Nat
  tAckLow1 : Nat
  tAckLow2 : Nat
  tAckHigh1 : Nat
  tAckHigh2 : Nat
  tSettle : Nat
  deriving DecidableEq, Repr, Inhabited

/-- The count a delay's name stands for; `T_HIGH_REM = T_HIGH - T_SETTLE` (R7, R61 (e)). -/
def BusConfiguration.count (cfg : BusConfiguration) : DelayName → Nat
  | .T_SU_STA => cfg.tSuSta
  | .T_HD_STA => cfg.tHdSta
  | .T_SU_STO => cfg.tSuSto
  | .T_BUF => cfg.tBuf
  | .T_LOW => cfg.tLow
  | .T_HIGH => cfg.tHigh
  | .T_ACK_LOW_1 => cfg.tAckLow1
  | .T_ACK_LOW_2 => cfg.tAckLow2
  | .T_ACK_HIGH_1 => cfg.tAckHigh1
  | .T_ACK_HIGH_2 => cfg.tAckHigh2
  | .T_SETTLE => cfg.tSettle
  | .T_HIGH_REM => cfg.tHigh - cfg.tSettle

namespace Config

/-- R9: the supported (system clock, bus frequency) pairs, fixed at build time, no value in the spec. -/
opaque supported : List (Nat × Nat)

/-- R6, R8: the resolver, "a deterministic pure function"; `none` is the build-time configuration error of R9. Its
arguments are the system clock, the bus frequency and the oversampling ratio: R8 calls it a function "of the two
input frequencies" and gives its contract over the three; taking the three is the model's choice (DESIGN CHOICE,
log 20). -/
opaque resolve : Nat → Nat → Nat → Option BusConfiguration

/-- R8, N2: the protocol minimum of a phase at a bus frequency; no value in the spec. That it is counted in delay units
without the system clock entering is the model's choice (DESIGN CHOICE, log 21). -/
opaque protocolMinimum : DelayName → Nat → Nat

/-- R8, N2: the configured bit period, in delay units. That it is fixed by the system clock and the bus frequency is the
model's choice (DESIGN CHOICE, log 21). -/
opaque bitPeriod : Nat → Nat → Nat

/-- R8, N3: the rounding tolerance of the bit period. That it is one constant, in delay units, for every configuration
is the model's choice (DESIGN CHOICE, log 21). -/
opaque roundingTolerance : Nat

/-- R8, N3: the protocol margin of a phase. That it is one constant, in delay units, for both phases and every
configuration is the model's choice (DESIGN CHOICE, log 21). -/
opaque protocolMargin : Nat

/-- R67, U5: the level the environment holds on the data wire at a moment nothing is scheduled for. -/
opaque freeSda : Nat → Level

/-- R70, U6: the same for the clock wire. -/
opaque freeScl : Nat → Level

end Config

/-- The named hypothesis of R8: both frequencies positive (R7), every delay of the document's list at least the protocol
minimum of its phase, each phase of a bit at least half the bit period less the margin, the two phases summing to
the bit period within the tolerance (R10: only the sum is constrained, not the split), and `T_SETTLE <= T_HIGH`
(R7). That no minimum is asked of `T_SETTLE` and `T_HIGH_REM` is the model's choice (DESIGN CHOICE, log 21). -/
structure TimingProfileValid (cfg : BusConfiguration) : Prop where
  sys_positive : 0 < cfg.fSys
  bus_positive : 0 < cfg.fBus
  settle_within_high : cfg.tSettle ≤ cfg.tHigh
  at_least_minimum : ∀ d, d ≠ .T_SETTLE → d ≠ .T_HIGH_REM → Config.protocolMinimum d cfg.fBus ≤ cfg.count d
  low_phase : Config.bitPeriod cfg.fSys cfg.fBus ≤ 2 * (cfg.tLow + Config.protocolMargin)
  high_phase : Config.bitPeriod cfg.fSys cfg.fBus ≤ 2 * (cfg.tHigh + Config.protocolMargin)
  period_low : Config.bitPeriod cfg.fSys cfg.fBus ≤ cfg.tLow + cfg.tHigh + Config.roundingTolerance
  period_high : cfg.tLow + cfg.tHigh ≤ Config.bitPeriod cfg.fSys cfg.fBus + Config.roundingTolerance

/-- The resolver's contract (R6, R8, R9): it answers exactly for the supported pairs, and what it answers is valid. That
it answers for every oversampling ratio on a supported pair, and may answer differently for each, is the model's
choice (DESIGN CHOICE, log 20). -/
def ResolverContract : Prop :=
  ∀ fSys fBus osr,
    ((∃ cfg, Config.resolve fSys fBus osr = some cfg) ↔ (fSys, fBus) ∈ Config.supported) ∧
    ∀ cfg, Config.resolve fSys fBus osr = some cfg →
      cfg.fSys = fSys ∧ cfg.fBus = fBus ∧ cfg.osr = osr ∧ TimingProfileValid cfg

end Sys2Proof
end

