-- ==== Sys2Proof/Machine/State.lean ====
section
/-! DEFINITION. The state of the block (spec 10_state.md R18), the agents outside it (00_scope.md R15) and the
ghost observer's record, as plain data; and the state right after reset (R36). -/

namespace Sys2Proof.Machine

/-- R23: the orchestrator state; 8 to 15 are never produced (U13). -/
inductive OrchState where
  | IDLE
  | STARTED
  | ADDRESSED
  | DATA_SENT
  | RESTARTED
  | READDRESSED
  | DATA_RECEIVED
  | STOPPED
  deriving DecidableEq, Repr

/-- R29: the result code of the last accepted command; 5 and 6 are never produced (U13). -/
inductive ResultCode where
  | OK
  | NACK_ADDRESS
  | NACK_REGISTER
  | NACK_DATA
  | NACK_READDRESS
  | ILLEGAL
  deriving DecidableEq, Repr

/-- R33: one event of the trace, one for every micro-operation. -/
inductive Event where
  | SCL (l : Level)
  | SDA (l : Level)
  | DIR (d : Dir)
  | RD (l : Level)
  | DLY (name : DelayName)
  deriving DecidableEq, Repr

/-- R15, R103, R108: one step of one agent, as the agenda schedules it. -/
inductive Turn where
  /-- The sequencer's step: one micro-operation if it has one. -/
  | sequencer
  /-- The host writes host register `n`. -/
  | hostWrite (n : Nat) (w : Word)
  /-- The host reads host register `n`. -/
  | hostRead (n : Nat)
  /-- The environment changes its contribution to the data wire. -/
  | envSda (l : Level)
  /-- The environment changes its contribution to the clock wire. -/
  | envScl (l : Level)
  /-- `rst` is asserted. -/
  | assertReset
  /-- `rst` is released. -/
  | releaseReset
  deriving DecidableEq, Repr

/-- A wire state `(wire_scl, wire_sda)` (R70). -/
abbrev WireState := Level × Level

structure State where
  /-- `scl_out`, R19. -/
  sclOut : Level
  /-- `sda_out`, R19, R34. -/
  sdaOut : Level
  /-- `sda_dir`, R19. -/
  sdaDir : Dir
  /-- `CMDR`, R25. -/
  cmdr : Word
  /-- `SH`, R21. -/
  sh : Byte
  /-- `RXD`, R22. -/
  rxd : Byte
  /-- `OST`, R23. -/
  ost : OrchState
  /-- `UPC`, R24. -/
  upc : Nat
  /-- `ACKF`, R26. -/
  ackf : AckFlag
  /-- `RXV`, R27. -/
  rxv : Bool
  /-- `BUSY`, R28. -/
  busy : Bool
  /-- `DONE`, R28. -/
  done : Bool
  /-- `REJ`, R28. -/
  rej : Bool
  /-- `RES`, R29. -/
  res : ResultCode
  /-- `TR`, R33 (ghost). -/
  tr : List Event
  /-- The reset input `rst` is being asserted (R108). -/
  rst : Bool
  /-- `env_scl`, the environment's contribution to the clock wire (R70). -/
  envScl : Level
  /-- `env_sda`, the environment's contribution to the data wire (R67, R70). -/
  envSda : Level
  /-- Which agent moves next, oldest first (R15). The model's own field, log 2. -/
  agenda : List Turn
  /-- What the host's reads returned, oldest first: register number and value (R39). The model's own field, log 9. -/
  reads : List (Nat × Word)
  /-- The wire states since reset, repeats dropped, oldest first: the observer's input (R71, ghost). -/
  wave : List WireState
  /-- How many free environment levels have been taken. The model's own field, log 4. -/
  draws : Nat
  deriving DecidableEq, Repr

/-- R20: `SA = CMDR[23:16]`, an alias and no storage of its own. -/
def State.sa (s : State) : Byte := s.cmdr.extractLsb' 16 8

/-- R20: `RA = CMDR[15:8]`. -/
def State.ra (s : State) : Byte := s.cmdr.extractLsb' 8 8

/-- R20: `TD = CMDR[7:0]`. -/
def State.td (s : State) : Byte := s.cmdr.extractLsb' 0 8

/-- R36, R109: the block right after reset, `rst` released. Both lines are released, so each wire shows what the
environment holds, which the spec leaves to the environment (R111, log 4). -/
def State.reset : State where
  sclOut := .H
  sdaOut := .H
  sdaDir := .OUT
  cmdr := 0x00000000#32
  sh := 0x00#8
  rxd := 0x00#8
  ost := .IDLE
  upc := 0
  ackf := .NACK
  rxv := false
  busy := false
  done := false
  rej := false
  res := .OK
  tr := []
  rst := false
  envScl := Config.freeScl 0
  envSda := Config.freeSda 0
  agenda := []
  reads := []
  wave := [(Config.freeScl 0, Config.freeSda 0)]
  draws := 1

/-- Why the machine stops. Both are DEDUCED guards of states no run from reset reaches (log 6), and safe: the
model stops where the spec has no step. -/
inductive Fault where
  /-- Raised by a command's meaning when `UPC` is not below the number of its micro-operations (R24). Safe. -/
  | noMicroOperation
  /-- Raised by the sequencer's turn when `BUSY = 1` and `CMDR` holds a reserved opcode (R40 never leaves such a
  state). Safe. -/
  | busyWithoutCommand
  deriving DecidableEq, Repr

/-- What the model gives no meaning to. -/
inductive Refusal where
  /-- An instruction without a meaning yet; no arm of `exec` answers it. Safe. -/
  | notModelled (mnemonic : String)
  /-- Raised by `ReadDataLine` with `sda_dir = OUT`, which is outside its contract: "a model that meets one
  refuses" (R67, U1). No run from reset reaches it. Safe. -/
  | readWhileOutput
  deriving DecidableEq, Repr

/-- What a meaning answers. -/
abbrev Result := Host.Outcome State Fault Refusal

/-- The next state of an answer, if it is one. -/
def nextState? : Result → Option State
  | .next s => some s
  | .fault _ => none
  | .refused _ => none

end Sys2Proof.Machine
end

