-- ==== Sys2Proof/Machine/Operands.lean ====
section
/-! DEFINITION. The block's operand forms and its whole arithmetic on data (spec 00_scope.md R13, 30_encoding.md R53
and R61): levels of bits, the address byte, the receive shift. -/

namespace Sys2Proof.Machine

/-- R13: `lvl(0) = L`, `lvl(1) = H`. -/
def lvl (b : Bool) : Level := if b then .H else .L

/-- R13: `bit(L) = 0`, `bit(H) = 1`. -/
def bitOf : Level → Bool
  | .L => false
  | .H => true

/-- R26, R75: "sampled-low = ACK, sampled-high = NACK". -/
def ackOfLevel : Level → AckFlag
  | .L => .ACK
  | .H => .NACK

/-- R77: the level the master gives in the ack phase for a policy, `lvl(p)`: ACK is L, NACK is H. -/
def lvlOfPolicy (p : AckFlag) : Level := lvl p.toBit

/-- R53, R82: `AddrByte(SA, dir) = {SA[7:1], dir}`. -/
def addrByte (sa : Byte) (dir : Access) : Byte := sa.extractLsb' 1 7 ++ BitVec.ofBool dir.toBit

/-- R21, R61 (c): `SH <- {SH[6:0], b}`, the old `SH[7]` discarded. -/
def shiftIn (sh : Byte) (b : Bool) : Byte := sh.extractLsb' 0 7 ++ BitVec.ofBool b

/-- R12, R44: the bit numbers in the order a byte is on the wire, "bit 7 is transmitted or received first". -/
def msbFirst : List Nat := [7, 6, 5, 4, 3, 2, 1, 0]

end Sys2Proof.Machine
end

