-- ==== Sys2Proof/Machine/Flags.lean ====
section
/-! DEFINITION. Flags, codes and the host's view of them (spec 10_state.md R23, R26 to R32). -/

namespace Sys2Proof.Machine

/-- R23: the 4-bit encoding of `OST`. -/
def OrchState.code : OrchState → BitVec 4
  | .IDLE => 0
  | .STARTED => 1
  | .ADDRESSED => 2
  | .DATA_SENT => 3
  | .RESTARTED => 4
  | .READDRESSED => 5
  | .DATA_RECEIVED => 6
  | .STOPPED => 7

/-- R29: the 3-bit result code. -/
def ResultCode.code : ResultCode → BitVec 3
  | .OK => 0
  | .NACK_ADDRESS => 1
  | .NACK_REGISTER => 2
  | .NACK_DATA => 3
  | .NACK_READDRESS => 4
  | .ILLEGAL => 7

/-- R26: `ACKF` is written from the level sampled in the ack phase. -/
def writeAckf (l : Level) (s : State) : State := { s with ackf := ackOfLevel l }

/-- R31: the STATUS word, most significant field first: zero, OST, REJ, RES, RXV, ACKF, DONE, BUSY. -/
def statusWord (s : State) : Word :=
  0#20 ++ s.ost.code ++ BitVec.ofBool s.rej ++ s.res.code ++ BitVec.ofBool s.rxv
    ++ BitVec.ofBool s.ackf.toBit ++ BitVec.ofBool s.done ++ BitVec.ofBool s.busy

/-- R32: the RXDATA word. -/
def rxdataWord (s : State) : Word := 0#24 ++ s.rxd

end Sys2Proof.Machine
end

