-- ==== Sys2Proof/Machine/Wires.lean ====
section
/-! DEFINITION. The pads, the wires and the ghost observer of bus events (spec 40_pin_primitives.md R63, R70,
R71). -/

namespace Sys2Proof.Machine

/-- R63: `scl_pull_low`. -/
def sclPullLow (s : State) : Bool := decide (s.sclOut = .L)

/-- R63: `sda_pull_low`: low reaches the pad only while the direction is OUT (R65). -/
def sdaPullLow (s : State) : Bool := decide (s.sdaDir = .OUT ∧ s.sdaOut = .L)

/-- R70: a wire is L if any contributor pulls it low, else H. -/
def wireLevel (pullLow : Bool) (env : Level) : Level := if pullLow then .L else env

def wireScl (s : State) : Level := wireLevel (sclPullLow s) s.envScl

def wireSda (s : State) : Level := wireLevel (sdaPullLow s) s.envSda

/-- R70: `sda_in = wire_sda`. -/
def sdaIn (s : State) : Level := wireSda s

def wires (s : State) : WireState := (wireScl s, wireSda s)

/-- R71: one wire state per step, "with a pair equal to its predecessor dropped". -/
def observe (s : State) : State :=
  { s with wave := if s.wave.getLast? = some (wires s) then s.wave else s.wave ++ [wires s] }

/-- R71: what the observer reports. -/
inductive BusEvent where
  | START
  | STOP
  | BYTE (x : Byte) (a : AckFlag)
  deriving DecidableEq, Repr

/-- R71: a group of nine bits as a byte, first bit in bit 7, with its acknowledge. -/
def byteEvent (bits : List Bool) : BusEvent :=
  .BYTE ((bits.take 8).foldl shiftIn 0#8) (ackOfBit (bits.getD 8 false))

/-- R71: what one adjacent pair does: the events it emits, and the bit group after it. -/
def busEdge (old new : WireState) (bits : List Bool) : List BusEvent × List Bool :=
  if old = (.H, .H) ∧ new = (.H, .L) then ([.START], [])
  else if old = (.H, .L) ∧ new = (.H, .H) then ([.STOP], [])
  else if old.1 = .L ∧ new.1 = .H ∧ old.2 = new.2 then
    if bits.length = 8 then ([byteEvent (bits ++ [bitOf new.2])], []) else ([], bits ++ [bitOf new.2])
  else ([], bits)

/-- R71: the observer's events, from the previous pair `old` and the bit group so far. -/
def busEventsFrom (old : WireState) (bits : List Bool) : List WireState → List BusEvent
  | [] => []
  | new :: rest => (busEdge old new bits).1 ++ busEventsFrom new (busEdge old new bits).2 rest

/-- R71: the observer's bit group, from the same. -/
def bitGroupFrom (old : WireState) (bits : List Bool) : List WireState → List Bool
  | [] => bits
  | new :: rest => bitGroupFrom new (busEdge old new bits).2 rest

/-- R71: the bus events of a sequence of wire states, which starts with the pair at reset. -/
def busEvents : List WireState → List BusEvent
  | [] => []
  | first :: rest => busEventsFrom first [] rest

/-- R71: the bits taken since the last byte, START or STOP, in a sequence of wire states. -/
def bitGroup : List WireState → List Bool
  | [] => []
  | first :: rest => bitGroupFrom first [] rest

end Sys2Proof.Machine
end

