-- ==== Sys2Proof/Machine/Ops.lean ====
section
/-! DEFINITION. The named operations: the five micro-operations (spec 40_pin_primitives.md R64 to R68), the state
writes the rules attach to a micro-operation, running a routine's micro-operation number `UPC`, completion, the
abort on a NACK (60_exceptions.md R96) and the host register port (20_memory.md R39 to R41). -/

namespace Sys2Proof.Machine

/-! ## Micro-operations -/

/-- The five micro-operations. -/
inductive MicroOp where
  | setClockLine (l : Level)
  | setDataLine (l : Level)
  | setDataDirection (d : Dir)
  | readDataLine
  | delay (name : DelayName)
  deriving DecidableEq, Repr

/-- `Tick(e)`: one event, one micro-operation more. -/
def tick (e : Event) (s : State) : State := { s with tr := s.tr ++ [e], upc := s.upc + 1 }

/-- R64. -/
def setClockLine (l : Level) (s : State) : State := tick (.SCL l) { s with sclOut := l }

/-- R65: the latch is written whatever the direction is. -/
def setDataLine (l : Level) (s : State) : State := tick (.SDA l) { s with sdaOut := l }

/-- R66. -/
def setDataDirection (d : Dir) (s : State) : State := tick (.DIR d) { s with sdaDir := d }

/-- R67: the state after a read that returned `v`; its callers write `ACKF` or `SH` from `v`. -/
def readDataLine (v : Level) (s : State) : State := tick (.RD v) s

/-- R68: one event, no other change; `k = 0` is still one step and one event. -/
def delay (name : DelayName) (s : State) : State := tick (.DLY name) s

/-- The state after one micro-operation; `v` is the level of the data wire at its step. -/
def microOp (v : Level) : MicroOp → State → State
  | .setClockLine l, s => setClockLine l s
  | .setDataLine l, s => setDataLine l s
  | .setDataDirection d, s => setDataDirection d s
  | .readDataLine, s => readDataLine v s
  | .delay name, s => delay name s

/-! ## The state writes attached to a micro-operation's step -/

/-- The abort path's entry, `raise Nack(code)` (R96): the code is recorded in the step of the sample, beside
`ACKF <- NACK`. Nothing is saved, since nothing is resumed; the rest of the path (the rest of the byte, `Stop()`,
completion) is what the command's routine gives for that code. -/
def raiseNack (code : ResultCode) (s : State) : State := { s with ackf := .NACK, res := code }

/-- Completion, the return to the host (R29, R62, R97): in the step of the last micro-operation. -/
def complete (s : State) : State := { s with busy := false, done := true, ost := .IDLE }

/-- The writes a rule places "in the step of" a micro-operation. -/
inductive Effect where
  /-- R77: `SH <- 0x00`, in the step of offset 0 of ReceiveByte. -/
  | clearShift
  /-- R77: `SH <- {SH[6:0], b}`, in the step of the sample. -/
  | shiftSample
  /-- R75: `ACKF` from the sample, and the code to raise if it is a NACK (R84 (c)). -/
  | sampleAck (onNack : Option ResultCode)
  /-- R77: `RXD <- SH; RXV <- 1`. -/
  | presentByte
  /-- R23, R84 (b): the orchestrator state, in the step of the last micro-operation of the stage named. -/
  | enter (o : OrchState)
  deriving DecidableEq, Repr

/-- One attached write; `v` is the level the step's `ReadDataLine` returned. -/
def applyEffect (v : Level) (s : State) : Effect → State
  | .clearShift => { s with sh := 0x00#8 }
  | .shiftSample => { s with sh := shiftIn s.sh (bitOf v) }
  | .sampleAck none => writeAckf v s
  | .sampleAck (some code) => if v = .L then writeAckf v s else raiseNack code s
  | .presentByte => { s with rxd := s.sh, rxv := true }
  | .enter o => { s with ost := o }

/-- A line of a routine: a micro-operation with the writes of its step. -/
structure MicroStep where
  op : MicroOp
  effects : List Effect := []
  deriving DecidableEq, Repr

/-- A routine, flattened (R24): its micro-operations in order. -/
abbrev Routine := List MicroStep

/-- One micro-operation with its writes. A read with direction OUT is outside the contract and is refused (R67, U1);
the level read is that of the data wire at the step (R47 (e)). -/
def performStep (m : MicroStep) (s : State) : Result :=
  if m.op = .readDataLine ∧ s.sdaDir = .OUT then .refused .readWhileOutput
  else .next (m.effects.foldl (applyEffect (sdaIn s)) (microOp (sdaIn s) m.op s))

/-- Micro-operation number `UPC` of a routine (R24), completing the command in the step of its last one (R17). -/
def performAt (r : Routine) (s : State) : Result :=
  match r[s.upc]? with
  | none => .fault .noMicroOperation
  | some m =>
    match performStep m s with
    | .next t => .next (if s.upc + 1 = r.length then complete t else t)
    | .fault f => .fault f
    | .refused x => .refused x

/-- Attach one more write to the last micro-operation of a stage. -/
def withLast (e : Effect) : Routine → Routine
  | [] => []
  | [m] => [{ m with effects := m.effects ++ [e] }]
  | m :: ms => m :: withLast e ms

/-- Attach one more write to the first micro-operation of a routine. -/
def withFirst (e : Effect) : Routine → Routine
  | [] => []
  | m :: ms => { m with effects := m.effects ++ [e] } :: ms

/-- R124: the sum of a routine's delay counts under a configuration. -/
def delayTotal (cfg : BusConfiguration) (r : Routine) : Nat :=
  (r.map fun m => match m.op with | .delay name => cfg.count name | _ => 0).sum

/-! ## The host register port -/

/-- R39, R30 to R32: the value of host register `n`; any other number reads zero. -/
def hostRead (n : Nat) (s : State) : Word :=
  match n with
  | 0 => s.cmdr
  | 1 => statusWord s
  | 2 => rxdataWord s
  | _ => 0x00000000#32

/-- R40: what acceptance writes before the word is looked at. It does not write `ACKF`, `SH`, `OST`, `REJ`, the pins or
`TR`. -/
def latchCommand (w : Word) (s : State) : State :=
  { s with cmdr := w, upc := 0, done := false, res := .OK, rxv := false, rxd := 0x00#8 }

/-- R95: an illegal word completes at once, with no micro-operation. -/
def completeIllegal (s : State) : State := { s with res := .ILLEGAL, done := true }

/-- R40: acceptance of a word while `BUSY = 0`. -/
def accept (w : Word) (s : State) : State :=
  if legalOpcode (fieldOpc w) then { latchCommand w s with busy := true }
  else completeIllegal (latchCommand w s)

/-- R98: a word written while `BUSY = 1` is dropped whole. -/
def rejectBusy (s : State) : State := { s with rej := true }

/-- R40, R41: a host write; the busy test comes before decoding (R99 (a)). -/
def hostWrite (n : Nat) (w : Word) (s : State) : State :=
  match n with
  | 0 => if s.busy then rejectBusy s else accept w s
  | _ => s

end Sys2Proof.Machine
end

