-- ==== Sys2Proof/Machine/Transfer.lean ====
section
/-! DEFINITION. Bit and byte transfer (spec 41_bit_byte_transfer.md): TransmitBit, TransmitByte, ReceiveBit,
ReceiveByte, and the meanings of TXBYTE and RXBYTE. -/

namespace Sys2Proof.Machine

/-- R74: `TransmitBit(b)`, six micro-operations; it ends with the clock high. -/
def transmitBit (b : Bool) : Routine :=
  [⟨.setClockLine .L, []⟩,
   ⟨.setDataLine (lvl b), []⟩,
   ⟨.setDataDirection .OUT, []⟩,
   ⟨.delay .T_LOW, []⟩,
   ⟨.setClockLine .H, []⟩,
   ⟨.delay .T_HIGH, []⟩]

/-- R75: the ack phase of TransmitByte, offsets 48 to 56; `onNack` is the code a composite command raises. -/
def sampleAckPhase (onNack : Option ResultCode) : Routine :=
  [⟨.setClockLine .L, []⟩,
   ⟨.setDataDirection .IN, []⟩,
   ⟨.delay .T_ACK_LOW_1, []⟩,
   ⟨.setClockLine .H, []⟩,
   ⟨.delay .T_ACK_HIGH_1, []⟩,
   ⟨.readDataLine, [.sampleAck onNack]⟩,
   ⟨.delay .T_ACK_HIGH_2, []⟩,
   ⟨.setClockLine .L, []⟩,
   ⟨.delay .T_ACK_LOW_2, []⟩]

/-- R75: `TransmitByte(x)`, 57 micro-operations, most significant bit first. -/
def transmitByte (onNack : Option ResultCode) (x : Byte) : Routine :=
  (msbFirst.flatMap fun i => transmitBit (x.getLsbD i)) ++ sampleAckPhase onNack

/-- R76: `ReceiveBit()`, eight micro-operations, with the shift of R77 in the step of the sample. -/
def receiveBit : Routine :=
  [⟨.setClockLine .L, []⟩,
   ⟨.setDataDirection .IN, []⟩,
   ⟨.delay .T_LOW, []⟩,
   ⟨.setClockLine .H, []⟩,
   ⟨.delay .T_SETTLE, []⟩,
   ⟨.readDataLine, [.shiftSample]⟩,
   ⟨.delay .T_HIGH_REM, []⟩,
   ⟨.setClockLine .L, []⟩]

/-- R77: the ack phase of ReceiveByte, offsets 64 to 72, in which the master gives the acknowledge. -/
def driveAckPhase (p : AckFlag) : Routine :=
  [⟨.setDataLine (lvlOfPolicy p), []⟩,
   ⟨.setDataDirection .OUT, []⟩,
   ⟨.delay .T_ACK_LOW_1, []⟩,
   ⟨.setClockLine .H, []⟩,
   ⟨.delay .T_ACK_HIGH_1, []⟩,
   ⟨.delay .T_ACK_HIGH_2, []⟩,
   ⟨.setClockLine .L, []⟩,
   ⟨.setDataDirection .IN, []⟩,
   ⟨.delay .T_ACK_LOW_2, [.presentByte]⟩]

/-- R77: `ReceiveByte(p)`, 73 micro-operations. -/
def receiveByte (p : AckFlag) : Routine :=
  withFirst .clearShift (msbFirst.flatMap fun _ => receiveBit) ++ driveAckPhase p

/-- TXBYTE (R75): the result is in `ACKF`; a NACK is no failure here (R90). -/
def execTxbyte (x : Byte) (s : State) : Result := performAt (transmitByte none x) s

/-- RXBYTE (R77): the result is in `RXD`, `RXV`. -/
def execRxbyte (p : AckFlag) (s : State) : Result := performAt (receiveByte p) s

end Sys2Proof.Machine
end

