-- ==== Sys2Proof/Machine/Bus.lean ====
section
/-! DEFINITION. Start and stop conditions and address framing (spec 42_bus_sequencer.md): the meanings of START,
STOP and ADDR. -/

namespace Sys2Proof.Machine

/-- R80: `Start()`, eight micro-operations; the START edge is number 5. -/
def startRoutine : Routine :=
  [⟨.setDataLine .H, []⟩,
   ⟨.setDataDirection .OUT, []⟩,
   ⟨.setClockLine .H, []⟩,
   ⟨.delay .T_BUF, []⟩,
   ⟨.delay .T_SU_STA, []⟩,
   ⟨.setDataLine .L, []⟩,
   ⟨.delay .T_HD_STA, []⟩,
   ⟨.setClockLine .L, []⟩]

/-- R81: `Stop()`, eight micro-operations; the STOP edge is number 6. -/
def stopRoutine : Routine :=
  [⟨.setClockLine .L, []⟩,
   ⟨.setDataLine .L, []⟩,
   ⟨.setDataDirection .OUT, []⟩,
   ⟨.delay .T_LOW, []⟩,
   ⟨.setClockLine .H, []⟩,
   ⟨.delay .T_SU_STO, []⟩,
   ⟨.setDataLine .H, []⟩,
   ⟨.delay .T_BUF, []⟩]

/-- R82: `AddressByte(sa, dir)` delegates to TransmitByte; `sa[0]` is ignored. -/
def addressByte (onNack : Option ResultCode) (sa : Byte) (dir : Access) : Routine :=
  transmitByte onNack (addrByte sa dir)

/-- START (R80). -/
def execStart (s : State) : Result := performAt startRoutine s

/-- STOP (R81). -/
def execStop (s : State) : Result := performAt stopRoutine s

/-- ADDR (R82): the result is in `ACKF`. -/
def execAddr (sa : Byte) (dir : Access) (s : State) : Result := performAt (addressByte none sa dir) s

end Sys2Proof.Machine
end

