-- ==== Sys2Proof/Machine/Transaction.lean ====
section
/-! DEFINITION. The register transactions (spec 43_transaction_orchestrator.md): the meanings of WRREG and RDREG.

The micro-operation at a step is a function of the command, `UPC` and the levels sampled so far (R24). The tests on
those levels are the abort tests of R85 and R86, and `RES` holds what they found: it is `OK` from acceptance
until a NACK is raised, and the raised code after it (R29, R84 (c), R96). So the path still to run is read from
`RES` (log 5). Two paths of one command agree up to and with the sample that tells them apart. -/

namespace Sys2Proof.Machine

/-- The last stage of both commands, on every path (R84 (d), R87). -/
def closing : Routine := withLast (.enter .STOPPED) stopRoutine

/-- The first stages of both: `Start()`, then the address byte with direction write (R85, R86), offsets 0 to 64. -/
def opening (sa : Byte) : Routine :=
  withLast (.enter .STARTED) startRoutine ++ addressByte (some .NACK_ADDRESS) sa .write

/-- Offsets 0 to 121, the address acknowledged: ADDRESSED from offset 64, then the register address. -/
def openingToRegister (sa ra : Byte) : Routine :=
  withLast (.enter .ADDRESSED) (opening sa) ++ transmitByte (some .NACK_REGISTER) ra

/-- R85: the path of WRREG that `RES` selects: 73, 130 or 187 micro-operations. A data-byte NACK skips nothing. -/
def wrregRoutine (sa ra d : Byte) (res : ResultCode) : Routine :=
  match res with
  | .NACK_ADDRESS => opening sa ++ closing
  | .NACK_REGISTER => openingToRegister sa ra ++ closing
  | .OK | .NACK_DATA | .NACK_READDRESS | .ILLEGAL =>
    openingToRegister sa ra ++ withLast (.enter .DATA_SENT) (transmitByte (some .NACK_DATA) d) ++ closing

/-- R86, offsets 0 to 186: the repeated start and the address byte with direction read. -/
def openingToReaddress (sa ra : Byte) : Routine :=
  openingToRegister sa ra ++ withLast (.enter .RESTARTED) startRoutine
    ++ addressByte (some .NACK_READDRESS) sa .read

/-- R86: the path of RDREG that `RES` selects: 73, 130, 195 or 268 micro-operations. -/
def rdregRoutine (sa ra : Byte) (res : ResultCode) : Routine :=
  match res with
  | .NACK_ADDRESS => opening sa ++ closing
  | .NACK_REGISTER => openingToRegister sa ra ++ closing
  | .NACK_READDRESS => openingToReaddress sa ra ++ closing
  | .OK | .NACK_DATA | .ILLEGAL =>
    withLast (.enter .READDRESSED) (openingToReaddress sa ra)
      ++ withLast (.enter .DATA_RECEIVED) (receiveByte .NACK) ++ closing

/-- The flattened routine of a command, on the path that `RES` selects (R24, R62). -/
def routineOf : Instr → ResultCode → Routine
  | .start, _ => startRoutine
  | .stop, _ => stopRoutine
  | .txbyte x, _ => transmitByte none x
  | .rxbyte p, _ => receiveByte p
  | .addr sa dir, _ => addressByte none sa dir
  | .wrreg sa ra d, res => wrregRoutine sa ra d res
  | .rdreg sa ra, res => rdregRoutine sa ra res

/-- WRREG (R85). -/
def execWrreg (sa ra d : Byte) (s : State) : Result := performAt (wrregRoutine sa ra d s.res) s

/-- RDREG (R86). -/
def execRdreg (sa ra : Byte) (s : State) : Result := performAt (rdregRoutine sa ra s.res) s

end Sys2Proof.Machine
end

