-- ==== Sys2Proof/Machine/Dispatch.lean ====
section
/-! DEFINITION. One arm per command: the meaning of a command is its micro-operation number `UPC` (spec 30_encoding.md
R62, 10_state.md R24). -/

namespace Sys2Proof.Machine

def exec (i : Instr) (s : State) : Host.Outcome State Fault Refusal :=
  match i with
  | .start => Sys2Proof.Machine.execStart s
  | .stop => Sys2Proof.Machine.execStop s
  | .txbyte x => Sys2Proof.Machine.execTxbyte x s
  | .rxbyte p => Sys2Proof.Machine.execRxbyte p s
  | .addr sa dir => Sys2Proof.Machine.execAddr sa dir s
  | .wrreg sa ra d => Sys2Proof.Machine.execWrreg sa ra d s
  | .rdreg sa ra => Sys2Proof.Machine.execRdreg sa ra s

end Sys2Proof.Machine
end

