-- ==== Sys2Proof/Machine/Agents.lean ====
section
/-! DEFINITION. One step of each agent (spec 00_scope.md R15, 70_reset_and_hazards.md R108). An agent that has no
step at its turn leaves the machine as it is. -/

namespace Sys2Proof.Machine

/-- The sequencer's step: the micro-operation of the command in `CMDR` while `BUSY = 1` (R15, R49, R62), none while
`BUSY = 0` or while `rst` is asserted (R108). -/
def sequencerTurn (s : State) : Result :=
  if s.rst then .next s
  else if s.busy then
    match decode s.cmdr with
    | .error _ => .fault .busyWithoutCommand
    | .ok i =>
      match exec i s with
      | .next t => .next (observe t)
      | .fault f => .fault f
      | .refused r => .refused r
  else .next s

/-- The host writes a register; "While `rst` is asserted the sequencer and the host register port have no step". -/
def hostWriteTurn (n : Nat) (w : Word) (s : State) : State :=
  if s.rst then s else hostWrite n w s

/-- The host reads a register: the block does not change (R39); what the read returned is kept for the host. -/
def hostReadTurn (n : Nat) (s : State) : State :=
  if s.rst then s else { s with reads := s.reads ++ [(n, hostRead n s)] }

/-- The environment changes its contribution to the data wire (R15, R70). -/
def envSdaTurn (l : Level) (s : State) : State := observe { s with envSda := l }

/-- The environment changes its contribution to the clock wire (R70, R119). -/
def envSclTurn (l : Level) (s : State) : State := observe { s with envScl := l }

/-- `rst` is asserted (R108): "puts every state element at its reset value in one step". The environment, the host and
what is scheduled are not the block's; the observer starts again from the pair at reset (R71). -/
def assertResetTurn (s : State) : State :=
  { State.reset with
    rst := true, envScl := s.envScl, envSda := s.envSda, agenda := s.agenda, reads := s.reads,
    wave := [(s.envScl, s.envSda)], draws := s.draws }

/-- "when it is released the block is in the reset state" (R108). -/
def releaseResetTurn (s : State) : State := { s with rst := false }

/-- The step an agenda entry stands for. -/
def turn : Turn → State → Result
  | .sequencer, s => sequencerTurn s
  | .hostWrite n w, s => .next (hostWriteTurn n w s)
  | .hostRead n, s => .next (hostReadTurn n s)
  | .envSda l, s => .next (envSdaTurn l s)
  | .envScl l, s => .next (envSclTurn l s)
  | .assertReset, s => .next (assertResetTurn s)
  | .releaseReset, s => .next (releaseResetTurn s)

/-- The environment at a moment nothing is scheduled for: it may hold any levels (R15, R67, U5), so both contributions
become free values (log 3). The data wire's contribution changes first and the clock wire's after it, each seen by the
observer: that order is the model's choice (DESIGN CHOICE, log 22). -/
def freeEnvironment (s : State) : State :=
  { envSclTurn (Config.freeScl s.draws) (envSdaTurn (Config.freeSda s.draws) s) with draws := s.draws + 1 }

/-- A word placed for the sequencer's very next step: what `HostWrite(0, w)` to an idle block out of reset does
(R40), and the sequencer to move next. -/
def placeCommand (w : Word) (s : State) : State :=
  let t := accept w { s with rst := false, busy := false }
  { t with agenda := .sequencer :: t.agenda }

end Sys2Proof.Machine
end

