-- ==== Sys2Proof/Machine/Step.lean ====
section
/-! DEFINITION. One step of the machine: the agent the agenda names moves (spec 00_scope.md R15); with nothing
scheduled the environment is free and the sequencer moves (log 3). -/

namespace Sys2Proof.Machine

def step (s : State) : Host.Outcome State Fault Refusal :=
  match s.agenda with
  | [] => sequencerTurn (freeEnvironment s)
  | t :: rest => turn t { s with agenda := rest }

/-- `s` with a command word accepted and the sequencer to move next (log 15). -/
def State.withFetchWord (s : State) (nbits w : Nat) : State := placeCommand (tableWord nbits w) s

end Sys2Proof.Machine
end

