-- ==== Sys2Proof/Machine/Run.lean ====
section
/-! DEFINITION. Running a whole command: one `exec` per micro-operation, with what the environment holds on the data
wire at each of them given as a list (spec 40_pin_primitives.md R67: the environment is an oracle). Claims about
a command's result are stated over this. -/

namespace Sys2Proof.Machine

/-- The environment holds `l` on the data wire. -/
def holdSda (l : Level) (s : State) : State := { s with envSda := l }

/-- One micro-operation of `i` for each level of the list, the environment holding that level at its step. -/
def execRun (i : Instr) : List Level → State → Result
  | [], s => .next s
  | l :: ls, s =>
    match exec i (holdSda l s) with
    | .next t => execRun i ls t
    | .fault f => .fault f
    | .refused r => .refused r

/-- The agenda under which the environment sets the data wire before each of the sequencer's steps. -/
def turnsOf : List Level → List Turn
  | [] => []
  | l :: ls => .envSda l :: .sequencer :: turnsOf ls

/-- `n` steps of the machine, stopping at the first stop. -/
def runSteps : Nat → State → Result
  | 0, s => .next s
  | n + 1, s =>
    match step s with
    | .next t => runSteps n t
    | .fault f => .fault f
    | .refused r => .refused r

end Sys2Proof.Machine
end

