-- ==== Sys2Proof/Safety.lean ====
section
/-! DEFINITION. What a safe state is: the invariants of spec 10_state.md R37 with what they rest on (the pins follow
the running command's routine), and the data-line rule of 41_bit_byte_transfer.md R73 and 42_bus_sequencer.md
R79. -/

namespace Sys2Proof.Machine

/-- The three pin registers (R19). -/
structure Pins where
  scl : Level
  sda : Level
  dir : Dir
  deriving DecidableEq, Repr

def State.pins (s : State) : Pins := ⟨s.sclOut, s.sdaOut, s.sdaDir⟩

/-- The pins after one micro-operation (R64 to R68). -/
def Pins.after (p : Pins) : MicroOp → Pins
  | .setClockLine l => { p with scl := l }
  | .setDataLine l => { p with sda := l }
  | .setDataDirection d => { p with dir := d }
  | .readDataLine => p
  | .delay _ => p

/-- The pins after a routine, or a part of one, from `p`. -/
def pinsAfter (r : Routine) (p : Pins) : Pins := r.foldl (fun q m => q.after m.op) p

/-- R37 (e): the clock is held low, or neither line is held low. -/
def Pins.idleSafe (p : Pins) : Prop := p.scl = .L ∨ ¬(p.dir = .OUT ∧ p.sda = .L)

/-- The orchestrator state after one attached write (R23). -/
def orchStep (o : OrchState) : Effect → OrchState
  | .enter x => x
  | .clearShift => o
  | .shiftSample => o
  | .sampleAck _ => o
  | .presentByte => o

/-- The orchestrator state after a part of a routine (R23). -/
def orchAfter (r : Routine) (o : OrchState) : OrchState := r.foldl (fun q m => m.effects.foldl orchStep q) o

/-- Every element of the block at its reset value (R36). -/
def AtReset (s : State) : Prop :=
  s.sclOut = .H ∧ s.sdaOut = .H ∧ s.sdaDir = .OUT ∧ s.cmdr = 0x00000000#32 ∧ s.sh = 0x00#8 ∧ s.rxd = 0x00#8 ∧
  s.ost = .IDLE ∧ s.upc = 0 ∧ s.ackf = .NACK ∧ s.rxv = false ∧ s.busy = false ∧ s.done = false ∧ s.rej = false ∧
  s.res = .OK ∧ s.tr = []

/-- The state while command `i` runs: its word is in `CMDR`, `UPC` is below the number of its micro-operations, the pins
and `OST` are what the micro-operations performed so far made of a state between commands, and a code in `RES`
was raised by one of them. -/
structure Running (i : Instr) (s : State) : Prop where
  command : decode s.cmdr = .ok i
  below : s.upc < (routineOf i s.res).length
  pins : ∃ p : Pins, p.idleSafe ∧ s.pins = pinsAfter ((routineOf i s.res).take s.upc) p
  orch : s.ost = orchAfter ((routineOf i s.res).take s.upc) .IDLE
  code : s.res = .OK ∨ ∃ m ∈ (routineOf i s.res).take s.upc, Effect.sampleAck (some s.res) ∈ m.effects

/-- The invariant every step keeps. -/
structure Inv (s : State) : Prop where
  /-- R24, R37 (a): what runs is a command, at one of its micro-operations. -/
  running : s.busy = true → ∃ i, Running i s
  /-- R37 (c). -/
  not_both : s.busy = true → s.done = false
  /-- R37 (e). -/
  idle_pins : s.busy = false → s.pins.idleSafe
  /-- R37 (f). -/
  idle_orch : s.busy = false → s.ost = .IDLE
  /-- R37 (d). -/
  no_byte : s.rxv = false → s.rxd = 0x00#8
  /-- R92: a NACK failure leaves `ACKF = NACK`. -/
  nack_flag : s.res ≠ .OK → s.res ≠ .ILLEGAL → s.ackf = .NACK
  /-- R24: "`UPC` never exceeds 268". -/
  upc_bound : s.upc ≤ 268
  /-- R28: "Both are 0 only between reset and the first accepted command". -/
  fresh : s.busy = false → s.done = false → AtReset s
  /-- R108: while `rst` is asserted the block is in its reset state. -/
  in_reset : s.rst = true → AtReset s
  /-- R71: the observer has seen the present wire state. -/
  observed : s.wave.getLast? = some (wires s)

/-- R80, R81, R85, R86: the offsets of the START and STOP edges of a command on the path `RES` selects: number 5 of a
`Start()`, number 6 of a `Stop()`. -/
def edgeOffsets : Instr → ResultCode → List Nat
  | .start, _ => [5]
  | .stop, _ => [6]
  | .txbyte _, _ => []
  | .rxbyte _, _ => []
  | .addr _ _, _ => []
  | .wrreg _ _ _, .NACK_ADDRESS => [5, 71]
  | .wrreg _ _ _, .NACK_REGISTER => [5, 128]
  | .wrreg _ _ _, _ => [5, 185]
  | .rdreg _ _, .NACK_ADDRESS => [5, 71]
  | .rdreg _ _, .NACK_REGISTER => [5, 128]
  | .rdreg _ _, .NACK_READDRESS => [5, 127, 193]
  | .rdreg _ _, _ => [5, 127, 266]

end Sys2Proof.Machine
end

