-- ==== Sys2Proof/Certificates/Slice0/Obligations.lean ====
section
/-! DEFINITION. The statements for the provers. `Sys2Proof.Expected` writes out, from the spec's own tables, what a
statement expects: the effect of one micro-operation on the state, and the events of a routine; none of it uses the
model's routines. -/

namespace Sys2Proof.Expected

open Sys2Proof.Machine

/-! ## One micro-operation (spec 40_pin_primitives.md section 2) -/

/-- `SetClockLine(l)`: `scl_out <- l; Tick(SCL(l))`. -/
def clockTo (l : Level) (s : State) : State := { s with sclOut := l, tr := s.tr ++ [.SCL l], upc := s.upc + 1 }

/-- `SetDataLine(l)`: `sda_out <- l; Tick(SDA(l))`. -/
def dataTo (l : Level) (s : State) : State := { s with sdaOut := l, tr := s.tr ++ [.SDA l], upc := s.upc + 1 }

/-- `SetDataDirection(d)`: `sda_dir <- d; Tick(DIR(d))`. -/
def directionTo (d : Dir) (s : State) : State := { s with sdaDir := d, tr := s.tr ++ [.DIR d], upc := s.upc + 1 }

/-- `Delay(name)`: `Tick(DLY(name))`. -/
def waited (name : DelayName) (s : State) : State := { s with tr := s.tr ++ [.DLY name], upc := s.upc + 1 }

/-- `ReadDataLine()` that returned `l`: `Tick(RD=l)`. -/
def sampled (l : Level) (s : State) : State := { s with tr := s.tr ++ [.RD l], upc := s.upc + 1 }

/-- `Complete: BUSY <- 0; DONE <- 1; OST <- IDLE` (30_encoding.md section 6). -/
def completed (s : State) : State := { s with busy := false, done := true, ost := .IDLE }

/-- "sampled-low = ACK, sampled-high = NACK". -/
def ackOf (l : Level) : AckFlag := if l = .L then .ACK else .NACK

/-- `AddrByte(SA, dir) = (SA and 0xFE) or dir` (30_encoding.md section 2). -/
def addressByteOf (sa : Byte) (dir : Access) : Byte := (sa &&& 0xFE#8) ||| (if dir = .read then 0x01#8 else 0x00#8)

/-- `SH <- {SH[6:0], b}`, written as a left shift by one with `b` entering at bit 0. -/
def shifted (sh : Byte) (l : Level) : Byte := (sh <<< 1) ||| (if l = .H then 0x01#8 else 0x00#8)

/-- `lvl(b)`. -/
def levelOf (b : Bool) : Level := if b then .H else .L

/-- The level the master gives for an acknowledge policy. -/
def policyLevel (p : AckFlag) : Level := if p = .ACK then .L else .H

/-- `i` sends the byte `x`: TXBYTE of it, or an ADDR whose address byte it is. -/
def Sends (i : Instr) (x : Byte) : Prop := i = .txbyte x ∨ ∃ sa dir, i = .addr sa dir ∧ x = addressByteOf sa dir

/-! ## The events of the routines (spec files 41 and 42) -/

def startTrace : List Event :=
  [.SDA .H, .DIR .OUT, .SCL .H, .DLY .T_BUF, .DLY .T_SU_STA, .SDA .L, .DLY .T_HD_STA, .SCL .L]

def stopTrace : List Event :=
  [.SCL .L, .SDA .L, .DIR .OUT, .DLY .T_LOW, .SCL .H, .DLY .T_SU_STO, .SDA .H, .DLY .T_BUF]

def bitTrace (b : Bool) : List Event :=
  [.SCL .L, .SDA (levelOf b), .DIR .OUT, .DLY .T_LOW, .SCL .H, .DLY .T_HIGH]

/-- A transmitted byte whose acknowledge was sampled as `a`. -/
def txTrace (x : Byte) (a : Level) : List Event :=
  ([7, 6, 5, 4, 3, 2, 1, 0].flatMap fun j => bitTrace (x.getLsbD j)) ++
  [.SCL .L, .DIR .IN, .DLY .T_ACK_LOW_1, .SCL .H, .DLY .T_ACK_HIGH_1, .RD a, .DLY .T_ACK_HIGH_2, .SCL .L,
   .DLY .T_ACK_LOW_2]

def receivedBitTrace (l : Level) : List Event :=
  [.SCL .L, .DIR .IN, .DLY .T_LOW, .SCL .H, .DLY .T_SETTLE, .RD l, .DLY .T_HIGH_REM, .SCL .L]

/-- A received byte whose bits were sampled as `bits`, first to last, acknowledged with policy `p`. -/
def rxTrace (bits : List Level) (p : AckFlag) : List Event :=
  bits.flatMap receivedBitTrace ++
  [.SDA (policyLevel p), .DIR .OUT, .DLY .T_ACK_LOW_1, .SCL .H, .DLY .T_ACK_HIGH_1, .DLY .T_ACK_HIGH_2, .SCL .L,
   .DIR .IN, .DLY .T_ACK_LOW_2]

/-- Eight levels as a byte, the first in bit 7. -/
def byteOf (bits : List Level) : Byte :=
  BitVec.ofNat 8 (bits.foldl (fun n l => 2 * n + (if l = .H then 1 else 0)) 0)

/-- The environment holds `l` on the data wire at the micro-operation with offset `k`. -/
def LevelAt (ls : List Level) (k : Nat) (l : Level) : Prop := ls[k]? = some l

/-- The levels at the eight samples of a `ReceiveByte` that begins at offset `n` (its samples are at 8*k+5). -/
def receivedFrom (n : Nat) (ls : List Level) : List Level :=
  [5, 13, 21, 29, 37, 45, 53, 61].map fun k => ls.getD (n + k) .H

/-- The state at the end of a command that began in `s`: the pins it leaves, the number of its micro-operations, its
events, completion; every other field is as it was, but that the environment holds the last of the levels `ls`. -/
def ended (s : State) (scl sda : Level) (dir : Dir) (n : Nat) (events : List (List Event)) (ls : List Level) : State :=
  { s with
    sclOut := scl, sdaOut := sda, sdaDir := dir, upc := n, busy := false, done := true, ost := .IDLE,
    tr := s.tr ++ events.flatten, envSda := ls.getLastD s.envSda }

/-- The bytes WRREG and RDREG send first: the slave address with direction write. -/
def writeAddress (sa : Byte) (a : Level) : List Event := txTrace (addressByteOf sa .write) a

/-- The address byte RDREG sends after the repeated start. -/
def readAddress (sa : Byte) (a : Level) : List Event := txTrace (addressByteOf sa .read) a

/-- The host issues commands one after another, each run with the given levels on the data wire. -/
def issue : List (Instr × List Level) → State → Result
  | [], s => .next s
  | (i, ls) :: rest, s =>
    match execRun i ls (hostWrite 0 (encode i) s) with
    | .next t => issue rest t
    | .fault f => .fault f
    | .refused r => .refused r

/-- The bits of a word that its command ignores, column "ignored fields" of the table of 30_encoding.md section 3. -/
def ignoredBits : Instr → Word
  | .start => 0x00FFFFFF#32
  | .stop => 0x00FFFFFF#32
  | .txbyte _ => 0x00FFFF00#32
  | .rxbyte _ => 0x00FFFFFE#32
  | .addr _ _ => 0x0001FFFE#32
  | .wrreg _ _ _ => 0x00010000#32
  | .rdreg _ _ => 0x000100FF#32

/-- `n` turns of the sequencer. -/
def sequencerTurns (n : Nat) : List Turn := List.replicate n .sequencer

/-- A byte sent to a slave that answers `a`, which it holds while the clock is low around the ninth pulse. -/
def answeringSlave (a : Level) : List Turn :=
  sequencerTurns 50 ++ [.envSda a] ++ sequencerTurns 6 ++ [.envSda .H] ++ sequencerTurns 1

/-- A byte received from a slave that gives `bits`, each set up while the clock is low, and then releases the line. -/
def sendingSlave (bits : List Level) : List Turn :=
  (bits.flatMap fun l => sequencerTurns 3 ++ [.envSda l] ++ sequencerTurns 5) ++ [.envSda .H] ++ sequencerTurns 9

/-- A command about to perform its first micro-operation, from pins the invariant allows between commands, on a bus that
nobody else holds, the observer having seen the present wire state. -/
def AtFirstOp (s : State) : Prop :=
  s.rst = false ∧ s.busy = true ∧ s.upc = 0 ∧ s.pins.idleSafe ∧ s.envScl = .H ∧ s.envSda = .H ∧
  s.wave.getLast? = some (wires s)

/-- A completed command that added exactly `events` to what the observer saw, and left it between bytes. -/
def Showed (events : List BusEvent) (s t : State) : Prop :=
  t.busy = false ∧ busEvents t.wave = busEvents s.wave ++ events ∧ bitGroup t.wave = [] ∧
  t.wave.getLast? = some (wires t)

/-- Lengths of the paths of WRREG and RDREG (95_test_vectors.md section 2.1), by the code raised so far. -/
def wrregLength : ResultCode → Nat
  | .NACK_ADDRESS => 73
  | .NACK_REGISTER => 130
  | _ => 187

def rdregLength : ResultCode → Nat
  | .NACK_ADDRESS => 73
  | .NACK_REGISTER => 130
  | .NACK_READDRESS => 195
  | _ => 268

/-- The offsets of the reads of WRREG and RDREG on their paths (95_test_vectors.md section 2.1). -/
def wrregReads : ResultCode → List Nat
  | .NACK_ADDRESS => [61]
  | .NACK_REGISTER => [61, 118]
  | _ => [61, 118, 175]

/-- The offsets of RDREG's eight data samples, on the success path. -/
def rdregDataReads : List Nat := [192, 200, 208, 216, 224, 232, 240, 248]

def rdregReads : ResultCode → List Nat
  | .NACK_ADDRESS => [61]
  | .NACK_REGISTER => [61, 118]
  | .NACK_READDRESS => [61, 118, 183]
  | _ => [61, 118, 183] ++ rdregDataReads

/-- The stages of WRREG on the path of a code, each with its first offset, as the pseudocode of R85 gives them. -/
def wrregStages (sa ra d : Byte) : ResultCode → List (Nat × Instr)
  | .NACK_ADDRESS => [(0, .start), (8, .addr sa .write), (65, .stop)]
  | .NACK_REGISTER => [(0, .start), (8, .addr sa .write), (65, .txbyte ra), (122, .stop)]
  | _ => [(0, .start), (8, .addr sa .write), (65, .txbyte ra), (122, .txbyte d), (179, .stop)]

/-- The stages of RDREG, as the pseudocode of R86 gives them. -/
def rdregStages (sa ra : Byte) : ResultCode → List (Nat × Instr)
  | .NACK_ADDRESS => [(0, .start), (8, .addr sa .write), (65, .stop)]
  | .NACK_REGISTER => [(0, .start), (8, .addr sa .write), (65, .txbyte ra), (122, .stop)]
  | .NACK_READDRESS =>
    [(0, .start), (8, .addr sa .write), (65, .txbyte ra), (122, .start), (130, .addr sa .read), (187, .stop)]
  | _ =>
    [(0, .start), (8, .addr sa .write), (65, .txbyte ra), (122, .start), (130, .addr sa .read),
     (187, .rxbyte .NACK), (260, .stop)]

/-- A composite command's step does to the pins, the trace, `ACKF`, `SH`, `RXD` and `RXV` what a primitive's does. -/
def SameTransfer (t u : State) : Prop :=
  t.pins = u.pins ∧ t.tr = u.tr ∧ t.ackf = u.ackf ∧ t.sh = u.sh ∧ t.rxd = u.rxd ∧ t.rxv = u.rxv

/-- Everything outside the block's sequencing is as it was: the command, `REJ`, the reset input, the environment, the
host, the schedule and the observer. -/
def OutsideKept (s t : State) : Prop :=
  t.cmdr = s.cmdr ∧ t.rej = s.rej ∧ t.rst = s.rst ∧ t.envScl = s.envScl ∧ t.envSda = s.envSda ∧
  t.agenda = s.agenda ∧ t.reads = s.reads ∧ t.wave = s.wave ∧ t.draws = s.draws

/-- `BUSY`, `DONE` are as they were, unless the step was the command's last: then the command is complete. -/
def CompletesAt (last : Prop) (s t : State) : Prop :=
  (last → t.busy = false ∧ t.done = true ∧ t.ost = .IDLE) ∧ (¬last → t.busy = s.busy ∧ t.done = s.done)

end Sys2Proof.Expected

open Sys2Proof Sys2Proof.Machine Sys2Proof.Expected

/-! ## Encoding (spec 30_encoding.md) -/

/-- R52 to R55, R59: decoding the word of a command gives the command back, with every operand at every value. -/
def Obligations.DecodeEncodeRoundTrip : Prop :=
  ∀ i : Instr, decode (encode i) = .ok i

/-- R55, R59: encoding a decoded word gives the word with the bits its command ignores as zero, but for `A[0]` of ADDR,
WRREG and RDREG, which R55 lists as ignored and R59's table writes as given: the operand keeps it (log 16). That
it has no effect is in `IgnoredFieldsChangeNothing`. -/
def Obligations.EncodeDecodeKeepsUsedBits : Prop :=
  ∀ w : Word,
    (decode w = .ok .start → encode .start = w &&& 0xFF000000#32) ∧
    (decode w = .ok .stop → encode .stop = w &&& 0xFF000000#32) ∧
    (∀ x, decode w = .ok (.txbyte x) → encode (.txbyte x) = w &&& 0xFF0000FF#32) ∧
    (∀ p, decode w = .ok (.rxbyte p) → encode (.rxbyte p) = w &&& 0xFF000001#32) ∧
    (∀ sa dir, decode w = .ok (.addr sa dir) → encode (.addr sa dir) = w &&& 0xFFFF0001#32) ∧
    (∀ sa ra d, decode w = .ok (.wrreg sa ra d) → encode (.wrreg sa ra d) = w) ∧
    (∀ sa ra, decode w = .ok (.rdreg sa ra) → encode (.rdreg sa ra) = w &&& 0xFFFFFF00#32)

/-- R54: decoding is total, depends on `OPC` alone (mask `0xFF000000`, match `OPC << 24`), and takes the operands from
`w[23:16]`, `w[15:8]`, `w[7:0]`; every other word is illegal. -/
def Obligations.DecodeDependsOnOpcodeAlone : Prop :=
  ∀ w : Word,
    (w &&& 0xFF000000#32 = 0x01000000#32 → decode w = .ok .start) ∧
    (w &&& 0xFF000000#32 = 0x02000000#32 → decode w = .ok .stop) ∧
    (w &&& 0xFF000000#32 = 0x03000000#32 → decode w = .ok (.txbyte (w.extractLsb' 0 8))) ∧
    (w &&& 0xFF000000#32 = 0x04000000#32 → decode w = .ok (.rxbyte (if w.getLsbD 0 then .NACK else .ACK))) ∧
    (w &&& 0xFF000000#32 = 0x05000000#32 →
      decode w = .ok (.addr (w.extractLsb' 16 8) (if w.getLsbD 0 then .read else .write))) ∧
    (w &&& 0xFF000000#32 = 0x06000000#32 →
      decode w = .ok (.wrreg (w.extractLsb' 16 8) (w.extractLsb' 8 8) (w.extractLsb' 0 8))) ∧
    (w &&& 0xFF000000#32 = 0x07000000#32 → decode w = .ok (.rdreg (w.extractLsb' 16 8) (w.extractLsb' 8 8))) ∧
    ((w.extractLsb' 24 8 = 0x00#8 ∨ 0x08#8 ≤ w.extractLsb' 24 8) →
      decode w = .error (.reservedOpcode (w.extractLsb' 24 8)))

/-- R55, R57: an ignored field takes any value and does not change what the command does, is stored in `CMDR` and read
back through CMD as written, and is written as zero by the assembler. `A[0]` of ADDR, WRREG and RDREG is an ignored
field that the model keeps in the operand (log 16): words that differ in it decode to commands with the same
meaning (second clause), and the assembler writes it as given, as R59's table does (fourth clause). -/
def Obligations.IgnoredFieldsChangeNothing : Prop :=
  (∀ (w w' : Word) (i : Instr), decode w = .ok i → w &&& usedBits i = w' &&& usedBits i → decode w' = .ok i) ∧
  (∀ (w w' : Word) (i : Instr), decode w = .ok i → w ||| ignoredBits i = w' ||| ignoredBits i →
    ∃ j, decode w' = .ok j ∧ ∀ s : State, exec j s = exec i s) ∧
  (∀ (w : Word) (s : State), s.busy = false →
    (hostWrite 0 w s).cmdr = w ∧ hostRead 0 (hostWrite 0 w s) = w) ∧
  (∀ i : Instr, encode i &&& ~~~(usedBits i) = 0#32)

/-- 95_test_vectors.md section 3: words written out from the spec's encoding, one or more for each command. -/
def Obligations.SpecWordsDecode : Prop :=
  decode 0x01ABCDEF#32 = .ok .start ∧ decode 0x02000000#32 = .ok .stop ∧
  decode 0x03FFFF55#32 = .ok (.txbyte 0x55#8) ∧ decode 0x040000FF#32 = .ok (.rxbyte .NACK) ∧
  decode 0x040000FE#32 = .ok (.rxbyte .ACK) ∧ decode 0x05D00001#32 = .ok (.addr 0xD0#8 .read) ∧
  decode 0x06D00055#32 = .ok (.wrreg 0xD0#8 0x00#8 0x55#8) ∧ decode 0x07D000FF#32 = .ok (.rdreg 0xD0#8 0x00#8) ∧
  decode 0x00000000#32 = .error (.reservedOpcode 0x00#8) ∧ decode 0x08123456#32 = .error (.reservedOpcode 0x08#8) ∧
  decode 0xFFFFFFFF#32 = .error (.reservedOpcode 0xFF#8)

/-- R59, the table of words: what the assembler writes for operands in 0..255, and that it writes nothing for others. -/
def Obligations.AssemblerWords : Prop :=
  (∀ d, d < 256 → assemble (.txbyte d) = some (0x03000000#32 ||| BitVec.ofNat 32 d)) ∧
  (∀ sa, sa < 256 → assemble (.addr sa .write) = some (0x05000000#32 ||| (BitVec.ofNat 32 sa <<< 16))) ∧
  (∀ sa, sa < 256 → assemble (.addr sa .read) = some (0x05000001#32 ||| (BitVec.ofNat 32 sa <<< 16))) ∧
  (∀ sa ra d, sa < 256 → ra < 256 → d < 256 →
    assemble (.wrreg sa ra d) =
      some (0x06000000#32 ||| (BitVec.ofNat 32 sa <<< 16) ||| (BitVec.ofNat 32 ra <<< 8) ||| BitVec.ofNat 32 d)) ∧
  (∀ sa ra, sa < 256 → ra < 256 →
    assemble (.rdreg sa ra) = some (0x07000000#32 ||| (BitVec.ofNat 32 sa <<< 16) ||| (BitVec.ofNat 32 ra <<< 8))) ∧
  assemble .start = some 0x01000000#32 ∧ assemble .stop = some 0x02000000#32 ∧
  assemble (.rxbyte .ACK) = some 0x04000000#32 ∧ assemble (.rxbyte .NACK) = some 0x04000001#32 ∧
  (∀ d, 256 ≤ d → assemble (.txbyte d) = none) ∧
  (∀ sa dir, 256 ≤ sa → assemble (.addr sa dir) = none) ∧
  (∀ sa ra d, 256 ≤ sa ∨ 256 ≤ ra ∨ 256 ≤ d → assemble (.wrreg sa ra d) = none) ∧
  (∀ sa ra, 256 ≤ sa ∨ 256 ≤ ra → assemble (.rdreg sa ra) = none)

/-! ## Pins and wires (spec 40_pin_primitives.md) -/

/-- R64 to R68: what each micro-operation writes, what that does to the pads (low pulls to ground, high releases, the data
latch reaches the pad only with direction OUT), and that a read is valid only with direction IN, returns what the
environment holds, and is refused with direction OUT. -/
def Obligations.MicroOperationEffects : Prop :=
  ∀ s : State,
    (∀ l, performStep ⟨.setClockLine l, []⟩ s = .next (clockTo l s)) ∧
    (∀ l, performStep ⟨.setDataLine l, []⟩ s = .next (dataTo l s)) ∧
    (∀ d, performStep ⟨.setDataDirection d, []⟩ s = .next (directionTo d s)) ∧
    (∀ name, performStep ⟨.delay name, []⟩ s = .next (waited name s)) ∧
    (s.sdaDir = .IN → performStep ⟨.readDataLine, []⟩ s = .next (sampled s.envSda s)) ∧
    (s.sdaDir = .OUT → performStep ⟨.readDataLine, []⟩ s = .refused .readWhileOutput) ∧
    sclPullLow (clockTo .L s) = true ∧ sclPullLow (clockTo .H s) = false ∧ wireScl (clockTo .H s) = s.envScl ∧
    (s.sdaDir = .OUT → sdaPullLow (dataTo .L s) = true ∧ sdaPullLow (dataTo .H s) = false) ∧
    (s.sdaDir = .IN → ∀ l, sdaPullLow (dataTo l s) = false) ∧
    sdaPullLow (directionTo .IN s) = false ∧ (sdaPullLow (directionTo .OUT s) = true ↔ s.sdaOut = .L)

/-- R70: each wire is the wired-AND of the block's and the environment's contributions, `sda_in` is the data wire, and
no command's meaning depends on what the environment holds on the clock wire. -/
def Obligations.WiresAreWiredAnd : Prop :=
  (∀ s : State,
    (wireScl s = .L ↔ s.sclOut = .L ∨ s.envScl = .L) ∧
    (wireSda s = .L ↔ (s.sdaDir = .OUT ∧ s.sdaOut = .L) ∨ s.envSda = .L) ∧
    sdaIn s = wireSda s) ∧
  (∀ (i : Instr) (s : State) (l : Level),
    (∀ t, exec i s = .next t → exec i { s with envScl := l } = .next { t with envScl := l }) ∧
    (∀ f, exec i s = .fault f → exec i { s with envScl := l } = .fault f) ∧
    (∀ r, exec i s = .refused r → exec i { s with envScl := l } = .refused r))

/-- R72: a step of a command changes at most one pin register, at most one of the two pads and at most one wire, and
the event it appends names the change. -/
def Obligations.OnePinRegisterPerStep : Prop :=
  ∀ (i : Instr) (s t : State), exec i s = .next t →
    ¬(t.sclOut ≠ s.sclOut ∧ t.sdaOut ≠ s.sdaOut) ∧ ¬(t.sclOut ≠ s.sclOut ∧ t.sdaDir ≠ s.sdaDir) ∧
    ¬(t.sdaOut ≠ s.sdaOut ∧ t.sdaDir ≠ s.sdaDir) ∧
    ¬(sclPullLow t ≠ sclPullLow s ∧ sdaPullLow t ≠ sdaPullLow s) ∧
    ¬(wireScl t ≠ wireScl s ∧ wireSda t ≠ wireSda s) ∧
    ∃ e, t.tr = s.tr ++ [e] ∧ (t.sclOut ≠ s.sclOut → e = .SCL t.sclOut) ∧
      (t.sdaOut ≠ s.sdaOut → e = .SDA t.sdaOut) ∧ (t.sdaDir ≠ s.sdaDir → e = .DIR t.sdaDir)

/-! ## The commands, micro-operation by micro-operation (spec files 41 to 43) -/

/-- R80: START performs the eight micro-operations of `Start()` and completes with the last. -/
def Obligations.StartMicroOperations : Prop :=
  ∀ s : State,
    (s.upc = 0 → exec .start s = .next (dataTo .H s)) ∧
    (s.upc = 1 → exec .start s = .next (directionTo .OUT s)) ∧
    (s.upc = 2 → exec .start s = .next (clockTo .H s)) ∧
    (s.upc = 3 → exec .start s = .next (waited .T_BUF s)) ∧
    (s.upc = 4 → exec .start s = .next (waited .T_SU_STA s)) ∧
    (s.upc = 5 → exec .start s = .next (dataTo .L s)) ∧
    (s.upc = 6 → exec .start s = .next (waited .T_HD_STA s)) ∧
    (s.upc = 7 → exec .start s = .next (completed (clockTo .L s)))

/-- R81: STOP performs the eight micro-operations of `Stop()` and completes with the last. -/
def Obligations.StopMicroOperations : Prop :=
  ∀ s : State,
    (s.upc = 0 → exec .stop s = .next (clockTo .L s)) ∧
    (s.upc = 1 → exec .stop s = .next (dataTo .L s)) ∧
    (s.upc = 2 → exec .stop s = .next (directionTo .OUT s)) ∧
    (s.upc = 3 → exec .stop s = .next (waited .T_LOW s)) ∧
    (s.upc = 4 → exec .stop s = .next (clockTo .H s)) ∧
    (s.upc = 5 → exec .stop s = .next (waited .T_SU_STO s)) ∧
    (s.upc = 6 → exec .stop s = .next (dataTo .H s)) ∧
    (s.upc = 7 → exec .stop s = .next (completed (waited .T_BUF s)))

/-- R74, R75: the eight bits of a transmitted byte, most significant first, six micro-operations each; for TXBYTE and,
with its address byte, for ADDR (R82). -/
def Obligations.TransmittedBitsMicroOperations : Prop :=
  ∀ (i : Instr) (x : Byte) (s : State) (j : Nat), Sends i x → j < 8 →
    (s.upc = 6 * j → exec i s = .next (clockTo .L s)) ∧
    (s.upc = 6 * j + 1 → exec i s = .next (dataTo (levelOf (x.getLsbD (7 - j))) s)) ∧
    (s.upc = 6 * j + 2 → exec i s = .next (directionTo .OUT s)) ∧
    (s.upc = 6 * j + 3 → exec i s = .next (waited .T_LOW s)) ∧
    (s.upc = 6 * j + 4 → exec i s = .next (clockTo .H s)) ∧
    (s.upc = 6 * j + 5 → exec i s = .next (waited .T_HIGH s))

/-- R75: the ack phase of a transmitted byte, its sample into `ACKF`, and completion; for TXBYTE and ADDR. -/
def Obligations.TransmitAckMicroOperations : Prop :=
  ∀ (i : Instr) (x : Byte) (s : State), Sends i x →
    (s.upc = 48 → exec i s = .next (clockTo .L s)) ∧
    (s.upc = 49 → exec i s = .next (directionTo .IN s)) ∧
    (s.upc = 50 → exec i s = .next (waited .T_ACK_LOW_1 s)) ∧
    (s.upc = 51 → exec i s = .next (clockTo .H s)) ∧
    (s.upc = 52 → exec i s = .next (waited .T_ACK_HIGH_1 s)) ∧
    (s.upc = 53 → s.sdaDir = .IN → exec i s = .next { sampled s.envSda s with ackf := ackOf s.envSda }) ∧
    (s.upc = 53 → s.sdaDir = .OUT → exec i s = .refused .readWhileOutput) ∧
    (s.upc = 54 → exec i s = .next (waited .T_ACK_HIGH_2 s)) ∧
    (s.upc = 55 → exec i s = .next (clockTo .L s)) ∧
    (s.upc = 56 → exec i s = .next (completed (waited .T_ACK_LOW_2 s)))

/-- R82: a word with `OPC = 0x05` is ADDR with `sa = SA`, `dir = TD[0]`; ADDR is TransmitByte of the byte
`{sa[7:1], dir}`, 57 micro-operations; `sa[0]` is ignored, nothing else restricts `sa`. -/
def Obligations.AddrSendsAddressByte : Prop :=
  (∀ w : Word, w.extractLsb' 24 8 = 0x05#8 →
    decode w = .ok (.addr (w.extractLsb' 16 8) (if w.getLsbD 0 then .read else .write))) ∧
  (∀ (sa : Byte) (dir : Access) (s : State),
    exec (.addr sa dir) s = exec (.txbyte (addressByteOf sa dir)) s ∧
    (routineOf (.addr sa dir) s.res).length = 57) ∧
  (∀ (sa sa' : Byte) (dir : Access) (s : State), sa &&& 0xFE#8 = sa' &&& 0xFE#8 →
    exec (.addr sa dir) s = exec (.addr sa' dir) s)

/-- R76, R77: the eight bits of a received byte, eight micro-operations each: `SH` is cleared in the step of offset 0
and takes each sample in its step. -/
def Obligations.ReceivedBitsMicroOperations : Prop :=
  ∀ (p : AckFlag) (s : State) (k : Nat), k < 8 →
    (s.upc = 0 → exec (.rxbyte p) s = .next { clockTo .L s with sh := 0x00#8 }) ∧
    (s.upc = 8 * k → k ≠ 0 → exec (.rxbyte p) s = .next (clockTo .L s)) ∧
    (s.upc = 8 * k + 1 → exec (.rxbyte p) s = .next (directionTo .IN s)) ∧
    (s.upc = 8 * k + 2 → exec (.rxbyte p) s = .next (waited .T_LOW s)) ∧
    (s.upc = 8 * k + 3 → exec (.rxbyte p) s = .next (clockTo .H s)) ∧
    (s.upc = 8 * k + 4 → exec (.rxbyte p) s = .next (waited .T_SETTLE s)) ∧
    (s.upc = 8 * k + 5 → s.sdaDir = .IN →
      exec (.rxbyte p) s = .next { sampled s.envSda s with sh := shifted s.sh s.envSda }) ∧
    (s.upc = 8 * k + 5 → s.sdaDir = .OUT → exec (.rxbyte p) s = .refused .readWhileOutput) ∧
    (s.upc = 8 * k + 6 → exec (.rxbyte p) s = .next (waited .T_HIGH_REM s)) ∧
    (s.upc = 8 * k + 7 → exec (.rxbyte p) s = .next (clockTo .L s))

/-- R77: the ack phase of a received byte, which the master drives; `RXD` and `RXV` are written in the last step. -/
def Obligations.ReceiveAckMicroOperations : Prop :=
  ∀ (p : AckFlag) (s : State),
    (s.upc = 64 → exec (.rxbyte p) s = .next (dataTo (policyLevel p) s)) ∧
    (s.upc = 65 → exec (.rxbyte p) s = .next (directionTo .OUT s)) ∧
    (s.upc = 66 → exec (.rxbyte p) s = .next (waited .T_ACK_LOW_1 s)) ∧
    (s.upc = 67 → exec (.rxbyte p) s = .next (clockTo .H s)) ∧
    (s.upc = 68 → exec (.rxbyte p) s = .next (waited .T_ACK_HIGH_1 s)) ∧
    (s.upc = 69 → exec (.rxbyte p) s = .next (waited .T_ACK_HIGH_2 s)) ∧
    (s.upc = 70 → exec (.rxbyte p) s = .next (clockTo .L s)) ∧
    (s.upc = 71 → exec (.rxbyte p) s = .next (directionTo .IN s)) ∧
    (s.upc = 72 → exec (.rxbyte p) s = .next (completed { waited .T_ACK_LOW_2 s with rxd := s.sh, rxv := true }))

/-- R85, R24: every micro-operation of WRREG answers a next state with `UPC` one higher and one event more, the reads
at 61, 118, 175 with the direction IN; the samples set `ACKF` and raise the code of their stage on a NACK; the
command completes with the last micro-operation of its path. -/
def Obligations.WrregStepAnswersNext : Prop :=
  ∀ (sa ra d : Byte) (s : State), s.upc < wrregLength s.res → (s.upc ∈ wrregReads s.res → s.sdaDir = .IN) →
    ∃ t e, exec (.wrreg sa ra d) s = .next t ∧ t.upc = s.upc + 1 ∧ t.tr = s.tr ++ [e] ∧
      OutsideKept s t ∧ t.sh = s.sh ∧ t.rxd = s.rxd ∧ t.rxv = s.rxv ∧
      CompletesAt (s.upc + 1 = wrregLength s.res) s t ∧
      (s.upc ∈ wrregReads s.res → e = .RD s.envSda ∧ t.ackf = ackOf s.envSda) ∧
      (s.upc ∉ wrregReads s.res → t.ackf = s.ackf ∧ t.res = s.res) ∧
      (s.upc = 61 → t.res = if s.envSda = .H then .NACK_ADDRESS else s.res) ∧
      (s.upc = 118 → t.res = if s.envSda = .H then .NACK_REGISTER else s.res) ∧
      (s.upc = 175 → t.res = if s.envSda = .H then .NACK_DATA else s.res)

/-- R86, R24: the same for RDREG: acknowledge samples at 61, 118, 183, data samples at 192, 200, ..., 248 of the success
path, the byte presented at 259. -/
def Obligations.RdregStepAnswersNext : Prop :=
  ∀ (sa ra : Byte) (s : State), s.upc < rdregLength s.res → (s.upc ∈ rdregReads s.res → s.sdaDir = .IN) →
    ∃ t e, exec (.rdreg sa ra) s = .next t ∧ t.upc = s.upc + 1 ∧ t.tr = s.tr ++ [e] ∧
      OutsideKept s t ∧ CompletesAt (s.upc + 1 = rdregLength s.res) s t ∧
      (s.upc ∈ rdregReads s.res → e = .RD s.envSda) ∧
      (s.upc ∈ [61, 118, 183] → t.ackf = ackOf s.envSda) ∧
      (s.upc ∉ [61, 118, 183] → t.ackf = s.ackf ∧ t.res = s.res) ∧
      (s.upc = 61 → t.res = if s.envSda = .H then .NACK_ADDRESS else s.res) ∧
      (s.upc = 118 → t.res = if s.envSda = .H then .NACK_REGISTER else s.res) ∧
      (s.upc = 183 → t.res = if s.envSda = .H then .NACK_READDRESS else s.res) ∧
      (s.upc = 187 → rdregLength s.res = 268 → t.sh = 0x00#8) ∧
      (s.upc ∈ rdregDataReads → rdregLength s.res = 268 → t.sh = shifted s.sh s.envSda) ∧
      (s.upc ∉ 187 :: rdregDataReads ∨ rdregLength s.res ≠ 268 → t.sh = s.sh) ∧
      (s.upc = 259 → t.rxd = s.sh ∧ t.rxv = true) ∧
      (s.upc ≠ 259 → t.rxd = s.rxd ∧ t.rxv = s.rxv)

/-- R85, R86: the stages of WRREG and RDREG are the primitive commands, micro-operation by micro-operation: where a stage
begins at offset `n`, the command's micro-operation `UPC` is the primitive's number `UPC - n`. -/
def Obligations.CompositeStagesArePrimitiveCommands : Prop :=
  ∀ (sa ra d : Byte) (s u : State) (n : Nat) (i : Instr), n ≤ s.upc → exec i { s with upc := s.upc - n } = .next u →
    ((n, i) ∈ wrregStages sa ra d s.res → ∃ t, exec (.wrreg sa ra d) s = .next t ∧ SameTransfer t u) ∧
    ((n, i) ∈ rdregStages sa ra s.res → ∃ t, exec (.rdreg sa ra) s = .next t ∧ SameTransfer t u)

/-- R67, U1: the reads of WRREG and RDREG with direction OUT are refused, like those of the byte commands. -/
def Obligations.CompositeReadWhileOutputIsRefused : Prop :=
  ∀ (sa ra d : Byte) (s : State), s.sdaDir = .OUT →
    (s.upc ∈ wrregReads s.res → exec (.wrreg sa ra d) s = .refused .readWhileOutput) ∧
    (s.upc ∈ rdregReads s.res → exec (.rdreg sa ra) s = .refused .readWhileOutput)

/-- The model's choice (log 6; R24 never lets `UPC` get there): past its last micro-operation a command has none, and
its meaning stops by name. -/
def Obligations.PastLastMicroOperationStops : Prop :=
  ∀ s : State,
    (8 ≤ s.upc → exec .start s = .fault .noMicroOperation ∧ exec .stop s = .fault .noMicroOperation) ∧
    (57 ≤ s.upc → ∀ x sa dir, exec (.txbyte x) s = .fault .noMicroOperation ∧
      exec (.addr sa dir) s = .fault .noMicroOperation) ∧
    (73 ≤ s.upc → ∀ p, exec (.rxbyte p) s = .fault .noMicroOperation) ∧
    (wrregLength s.res ≤ s.upc → ∀ sa ra d, exec (.wrreg sa ra d) s = .fault .noMicroOperation) ∧
    (rdregLength s.res ≤ s.upc → ∀ sa ra, exec (.rdreg sa ra) s = .fault .noMicroOperation)

/-! ## Whole commands -/

/-- R80, R81, R83: a whole START and a whole STOP, from any pins: their eight events, the pins they leave, and nothing
else changed but `UPC` and completion. -/
def Obligations.StartAndStopRuns : Prop :=
  ∀ (s : State) (ls : List Level), s.upc = 0 → ls.length = 8 →
    execRun .start ls s = .next (ended s .L .L .OUT 8 [startTrace] ls) ∧
    execRun .stop ls s = .next (ended s .H .H .OUT 8 [stopTrace] ls)

/-- R75, R82, R78, R83: a whole transmitted byte (TXBYTE or ADDR), 57 micro-operations, the acknowledge sampled at
offset 53: a NACK is a result in `ACKF`, `RES` is untouched. -/
def Obligations.TransmittedByteRun : Prop :=
  ∀ (i : Instr) (x : Byte) (s : State) (ls : List Level) (a : Level),
    Sends i x → s.upc = 0 → ls.length = 57 → LevelAt ls 53 a →
    execRun i ls s =
      .next { ended s .L (levelOf (x.getLsbD 0)) .IN 57 [txTrace x a] ls with ackf := ackOf a }

/-- R77, R78, R83: a whole RXBYTE, 73 micro-operations: the eight sampled levels, most significant bit first, are the
byte, valid; `ACKF` and `RES` are untouched. -/
def Obligations.ReceivedByteRun : Prop :=
  ∀ (p : AckFlag) (s : State) (ls : List Level), s.upc = 0 → ls.length = 73 →
    execRun (.rxbyte p) ls s =
      .next { ended s .L (policyLevel p) .IN 73 [rxTrace (receivedFrom 0 ls) p] ls with
        sh := byteOf (receivedFrom 0 ls), rxd := byteOf (receivedFrom 0 ls), rxv := true }

/-- R84, R85, R87, R89, R96: a whole WRREG on each of its paths, from acceptance (`UPC = 0`, `RES = OK`): 187
micro-operations when address and register address are acknowledged, with the data byte's NACK reported and nothing
skipped; 130 when the register address is not, and the data byte is never transmitted; 73 when the address is not.
Every path ends with `Stop()` and the pins idle-high. -/
def Obligations.WrregRuns : Prop :=
  ∀ (sa ra d : Byte) (s : State) (ls : List Level), s.upc = 0 → s.res = .OK →
    (∀ a, ls.length = 187 → LevelAt ls 61 .L → LevelAt ls 118 .L → LevelAt ls 175 a →
      execRun (.wrreg sa ra d) ls s =
        .next { ended s .H .H .OUT 187 [startTrace, writeAddress sa .L, txTrace ra .L, txTrace d a, stopTrace] ls with
          ackf := ackOf a, res := if a = .L then .OK else .NACK_DATA }) ∧
    (ls.length = 130 → LevelAt ls 61 .L → LevelAt ls 118 .H →
      execRun (.wrreg sa ra d) ls s =
        .next { ended s .H .H .OUT 130 [startTrace, writeAddress sa .L, txTrace ra .H, stopTrace] ls with
          ackf := .NACK, res := .NACK_REGISTER }) ∧
    (ls.length = 73 → LevelAt ls 61 .H →
      execRun (.wrreg sa ra d) ls s =
        .next { ended s .H .H .OUT 73 [startTrace, writeAddress sa .H, stopTrace] ls with
          ackf := .NACK, res := .NACK_ADDRESS })

/-- R84, R86, R87, R89, R96: a whole RDREG on each of its paths: 268 micro-operations on success, the byte the eight
data samples give, valid; 195, 130, 73 with the code of the stage that was not acknowledged, and no byte written.
Every path ends with `Stop()` and the pins idle-high. -/
def Obligations.RdregRuns : Prop :=
  ∀ (sa ra : Byte) (s : State) (ls : List Level), s.upc = 0 → s.res = .OK →
    (ls.length = 268 → LevelAt ls 61 .L → LevelAt ls 118 .L → LevelAt ls 183 .L →
      execRun (.rdreg sa ra) ls s =
        .next { ended s .H .H .OUT 268
            [startTrace, writeAddress sa .L, txTrace ra .L, startTrace, readAddress sa .L,
             rxTrace (receivedFrom 187 ls) .NACK, stopTrace] ls with
          ackf := .ACK, sh := byteOf (receivedFrom 187 ls), rxd := byteOf (receivedFrom 187 ls), rxv := true }) ∧
    (ls.length = 195 → LevelAt ls 61 .L → LevelAt ls 118 .L → LevelAt ls 183 .H →
      execRun (.rdreg sa ra) ls s =
        .next { ended s .H .H .OUT 195
            [startTrace, writeAddress sa .L, txTrace ra .L, startTrace, readAddress sa .H, stopTrace] ls with
          ackf := .NACK, res := .NACK_READDRESS }) ∧
    (ls.length = 130 → LevelAt ls 61 .L → LevelAt ls 118 .H →
      execRun (.rdreg sa ra) ls s =
        .next { ended s .H .H .OUT 130 [startTrace, writeAddress sa .L, txTrace ra .H, stopTrace] ls with
          ackf := .NACK, res := .NACK_REGISTER }) ∧
    (ls.length = 73 → LevelAt ls 61 .H →
      execRun (.rdreg sa ra) ls s =
        .next { ended s .H .H .OUT 73 [startTrace, writeAddress sa .H, stopTrace] ls with
          ackf := .NACK, res := .NACK_ADDRESS })

/-- R23, R85, R86: where the orchestrator state stands in a running command, given the invariant: STARTED from offset
8, ADDRESSED from 65 on an acknowledged address (kept through the register address), then DATA_SENT from 179, or
RESTARTED from 130, READDRESSED from 187, DATA_RECEIVED from 260; a failure path keeps the state it had; the primitive
commands leave it IDLE; STOPPED is occupied for zero steps. -/
def Obligations.OrchestratorStateFollowsStages : Prop :=
  ∀ s : State, Inv s → s.busy = true →
    s.ost ≠ .STOPPED ∧
    (∀ sa ra d, decode s.cmdr = .ok (.wrreg sa ra d) →
      s.ost =
        if s.upc < 8 then .IDLE
        else if s.upc < 65 ∨ s.res = .NACK_ADDRESS then .STARTED
        else if s.upc < 179 then .ADDRESSED
        else .DATA_SENT) ∧
    (∀ sa ra, decode s.cmdr = .ok (.rdreg sa ra) →
      s.ost =
        if s.upc < 8 then .IDLE
        else if s.upc < 65 ∨ s.res = .NACK_ADDRESS then .STARTED
        else if s.upc < 130 ∨ s.res = .NACK_REGISTER then .ADDRESSED
        else if s.upc < 187 ∨ s.res = .NACK_READDRESS then .RESTARTED
        else if s.upc < 260 then .READDRESSED
        else .DATA_RECEIVED) ∧
    (∀ i, decode s.cmdr = .ok i → (∀ sa ra d, i ≠ .wrreg sa ra d) → (∀ sa ra, i ≠ .rdreg sa ra) → s.ost = .IDLE)

/-- R60, both trace equalities: with every acknowledge given, WRREG appends the events of START; ADDR sa, W; TXBYTE ra;
TXBYTE d; STOP, and RDREG those of START; ADDR sa, W; TXBYTE ra; START; ADDR sa, R; RXBYTE NACK; STOP, given the same
levels; the byte RDREG holds at its end is what RXDATA shows after RXBYTE NACK and before STOP. -/
def Obligations.CompositeTracesArePrimitiveSequences : Prop :=
  (∀ (sa ra d : Byte) (s : State) (l₁ l₂ l₃ l₄ l₅ : List Level), s.busy = false →
    l₁.length = 8 → l₂.length = 57 → l₃.length = 57 → l₄.length = 57 → l₅.length = 8 →
    LevelAt l₂ 53 .L → LevelAt l₃ 53 .L → LevelAt l₄ 53 .L →
    ∃ t u, execRun (.wrreg sa ra d) (l₁ ++ l₂ ++ l₃ ++ l₄ ++ l₅) (hostWrite 0 (encode (.wrreg sa ra d)) s) = .next t ∧
      issue [(.start, l₁), (.addr sa .write, l₂), (.txbyte ra, l₃), (.txbyte d, l₄), (.stop, l₅)] s = .next u ∧
      t.tr = u.tr) ∧
  (∀ (sa ra : Byte) (s : State) (l₁ l₂ l₃ l₄ l₅ l₆ l₇ : List Level), s.busy = false →
    l₁.length = 8 → l₂.length = 57 → l₃.length = 57 → l₄.length = 8 → l₅.length = 57 → l₆.length = 73 →
    l₇.length = 8 → LevelAt l₂ 53 .L → LevelAt l₃ 53 .L → LevelAt l₅ 53 .L →
    ∃ t u v, execRun (.rdreg sa ra) (l₁ ++ l₂ ++ l₃ ++ l₄ ++ l₅ ++ l₆ ++ l₇)
          (hostWrite 0 (encode (.rdreg sa ra)) s) = .next t ∧
      issue [(.start, l₁), (.addr sa .write, l₂), (.txbyte ra, l₃), (.start, l₄), (.addr sa .read, l₅),
        (.rxbyte .NACK, l₆)] s = .next u ∧
      issue [(.stop, l₇)] u = .next v ∧
      t.tr = v.tr ∧ hostRead 2 t = hostRead 2 u ∧ u.rxv = true ∧ t.rxv = true ∧ v.rxv = false)

/-! ## The host register port (spec 20_memory.md) -/

/-- R40: `HostWrite(0, w)`, each branch of its pseudocode; acceptance writes nothing else; out of reset the host's turn
performs it. -/
def Obligations.HostWriteCommand : Prop :=
  ∀ (w : Word) (s : State),
    (s.rst = false → turn (.hostWrite 0 w) s = .next (hostWrite 0 w s) ∧
      ∀ rest, s.agenda = .hostWrite 0 w :: rest → step s = .next (hostWrite 0 w { s with agenda := rest })) ∧
    (s.busy = true → hostWrite 0 w s = { s with rej := true }) ∧
    (s.busy = false → 1 ≤ (w.extractLsb' 24 8).toNat → (w.extractLsb' 24 8).toNat ≤ 7 →
      hostWrite 0 w s =
        { s with cmdr := w, upc := 0, done := false, res := .OK, rxv := false, rxd := 0x00#8, busy := true }) ∧
    (s.busy = false → (w.extractLsb' 24 8).toNat = 0 ∨ 8 ≤ (w.extractLsb' 24 8).toNat →
      hostWrite 0 w s =
        { s with cmdr := w, upc := 0, res := .ILLEGAL, rxv := false, rxd := 0x00#8, done := true })

/-- R95: an illegal command, in the step of the write: the listed writes, `BUSY` stays 0, the pins, `TR`, `ACKF` and
`OST` do not change, and the next command may be written at once. -/
def Obligations.IllegalCommandCompletesAtOnce : Prop :=
  ∀ (w w' : Word) (s : State), s.busy = false →
    ((w.extractLsb' 24 8).toNat = 0 ∨ 8 ≤ (w.extractLsb' 24 8).toNat) →
    hostWrite 0 w s =
      { s with cmdr := w, upc := 0, rxv := false, rxd := 0x00#8, res := .ILLEGAL, done := true, busy := false } ∧
    (hostWrite 0 w' (hostWrite 0 w s)).cmdr = w'

/-- R41: a write to any register number other than 0 changes nothing and does not fault. -/
def Obligations.ReadOnlyRegistersIgnoreWrites : Prop :=
  ∀ (n : Nat) (w : Word) (s : State), n ≠ 0 → hostWrite n w s = s ∧ turn (.hostWrite n w) s = .next s

/-- R39: what a host read returns, at any step, also while `BUSY = 1`, and that it changes no state of the block. That
what it returned is kept in `reads` is the model's choice (log 9, DESIGN CHOICE). The clause on `rst` is R108's:
the port has no step then (log 8). -/
def Obligations.HostReadReturnsRegisters : Prop :=
  ∀ s : State,
    hostRead 0 s = s.cmdr ∧ hostRead 1 s = statusWord s ∧ hostRead 2 s = s.rxd.setWidth 32 ∧
    (∀ n, 2 < n → hostRead n s = 0x00000000#32) ∧
    (∀ n, s.rst = false → turn (.hostRead n) s = .next { s with reads := s.reads ++ [(n, hostRead n s)] }) ∧
    (∀ n, s.rst = true → turn (.hostRead n) s = .next s)

/-- R31: the STATUS layout, bit by bit, the encodings of `ACKF`, `RES` and `OST` in it, its reset value, that writes to
it are ignored and that reads have no side effect on the block. -/
def Obligations.StatusLayout : Prop :=
  (∀ s : State,
    (hostRead 1 s).getLsbD 0 = s.busy ∧ (hostRead 1 s).getLsbD 1 = s.done ∧
    ((hostRead 1 s).getLsbD 2 = true ↔ s.ackf = .NACK) ∧ (hostRead 1 s).getLsbD 3 = s.rxv ∧
    (hostRead 1 s).extractLsb' 4 3 =
      (match s.res with
        | .OK => 0#3 | .NACK_ADDRESS => 1#3 | .NACK_REGISTER => 2#3 | .NACK_DATA => 3#3
        | .NACK_READDRESS => 4#3 | .ILLEGAL => 7#3) ∧
    (hostRead 1 s).getLsbD 7 = s.rej ∧
    (hostRead 1 s).extractLsb' 8 4 =
      (match s.ost with
        | .IDLE => 0#4 | .STARTED => 1#4 | .ADDRESSED => 2#4 | .DATA_SENT => 3#4 | .RESTARTED => 4#4
        | .READDRESSED => 5#4 | .DATA_RECEIVED => 6#4 | .STOPPED => 7#4) ∧
    (hostRead 1 s).extractLsb' 12 20 = 0#20) ∧
  hostRead 1 State.reset = 0x00000004#32 ∧
  (∀ (w : Word) (s : State), hostWrite 1 w s = s) ∧
  ∀ s : State, s.rst = false → ∃ r, turn (.hostRead 1) s = .next { s with reads := r }

/-- R98, R99 (a): a word written while `BUSY = 1` is dropped whole, a reserved one too, and sets `REJ`, which only
reset clears; the command goes on as if it had not been written. -/
def Obligations.RejectedWriteIsStickyAndHarmless : Prop :=
  (∀ (w : Word) (s : State), s.busy = true → hostWrite 0 w s = { s with rej := true }) ∧
  (∀ s t : State, step s = .next t → s.rej = true → (∀ rest, s.agenda ≠ .assertReset :: rest) → t.rej = true) ∧
  (∀ (n : Nat) (w : Word) (s t : State), s.busy = true → s.rst = false → sequencerTurn s = .next t →
    ∃ u, sequencerTurn (hostWriteTurn n w s) = .next u ∧ { u with rej := t.rej } = t)

/-! ## Reset (spec 10_state.md section 8, 70_reset_and_hazards.md section 1) -/

/-- R36: the reset values, what the host reads, and that the block releases both lines and leaves the wires to the
environment. -/
def Obligations.ResetValues : Prop :=
  AtReset State.reset ∧ State.reset.sa = 0x00#8 ∧ State.reset.ra = 0x00#8 ∧ State.reset.td = 0x00#8 ∧
  hostRead 0 State.reset = 0x00000000#32 ∧ hostRead 1 State.reset = 0x00000004#32 ∧
  hostRead 2 State.reset = 0x00000000#32 ∧
  sclPullLow State.reset = false ∧ sdaPullLow State.reset = false ∧
  ∀ e f : Level, wires { State.reset with envScl := e, envSda := f } = (e, f)

/-- R108: asserting `rst` at any step, also in mid-command, puts every element of the block at its reset value in one
step and performs no micro-operation; while it is asserted the sequencer and the host port have no step; when it is
released the block is in the reset state; and no other event ends a command before its last micro-operation. -/
def Obligations.ResetTakesEffectInOneStep : Prop :=
  (∀ (s : State) (rest : List Turn), s.agenda = .assertReset :: rest →
    ∃ t, step s = .next t ∧ AtReset t ∧ t.rst = true) ∧
  (∀ s : State, s.rst = true →
    turn .sequencer s = .next s ∧ (∀ n w, turn (.hostWrite n w) s = .next s) ∧
    (∀ n, turn (.hostRead n) s = .next s) ∧ turn .releaseReset s = .next { s with rst := false }) ∧
  (∀ s t : State, Inv s → s.rst = true → turn .releaseReset s = .next t → AtReset t ∧ t.rst = false) ∧
  (∀ s t : State, step s = .next t → s.busy = true → t.busy = false → (∀ rest, s.agenda ≠ .assertReset :: rest) →
    ∃ i, decode s.cmdr = .ok i ∧ s.upc + 1 = (routineOf i s.res).length)

/-- The model's reading of R108 (log 8): reset is the block's; the environment, what is scheduled and what the host has
read stay, and the observer starts again from the pair at reset, which is what the environment holds (R71, R111). -/
def Obligations.ResetKeepsWhatIsOutside : Prop :=
  ∀ (s : State) (rest : List Turn), s.agenda = .assertReset :: rest →
    ∃ t, step s = .next t ∧ t.agenda = rest ∧ t.envScl = s.envScl ∧ t.envSda = s.envSda ∧ t.reads = s.reads ∧
      t.draws = s.draws ∧ wires t = (s.envScl, s.envSda) ∧ t.wave = [wires t]

/-! ## The step -/

/-- R62, R49: when it is the sequencer's turn, `BUSY = 1` and `CMDR` decodes to `i`, the step is `exec i`, after which the
observer looks at the wires; a refusal or a fault of `exec` is the step's. So it is with nothing scheduled, after the
environment has moved freely, which is the model's choice (log 3). -/
def Obligations.StepRunsDecodedCommand : Prop :=
  ∀ (s : State) (i : Instr), s.rst = false → s.busy = true → decode s.cmdr = .ok i →
    (∀ (rest : List Turn) (t : State), s.agenda = .sequencer :: rest → exec i { s with agenda := rest } = .next t →
      step s = .next (observe t)) ∧
    (∀ (rest : List Turn) (r : Refusal), s.agenda = .sequencer :: rest →
      exec i { s with agenda := rest } = .refused r → step s = .refused r) ∧
    (∀ (rest : List Turn) (f : Fault), s.agenda = .sequencer :: rest →
      exec i { s with agenda := rest } = .fault f → step s = .fault f) ∧
    (s.agenda = [] →
      (∀ t, exec i (freeEnvironment s) = .next t → step s = .next (observe t)) ∧
      (∀ r, exec i (freeEnvironment s) = .refused r → step s = .refused r) ∧
      (∀ f, exec i (freeEnvironment s) = .fault f → step s = .fault f))

/-- R15: the sequencer has no step while `BUSY = 0`: at its turn nothing changes. With nothing scheduled only the
environment moves, its levels being free values taken at the counter `draws`, which grows by one: that clause is
the model's choice (logs 3 and 4, DESIGN CHOICE). -/
def Obligations.IdleSequencerHasNoStep : Prop :=
  ∀ s : State, s.busy = false →
    (∀ rest, s.agenda = .sequencer :: rest → step s = .next { s with agenda := rest }) ∧
    (s.agenda = [] → ∃ t, step s = .next t ∧
      t = { s with envScl := t.envScl, envSda := t.envSda, wave := t.wave, draws := s.draws + 1 })

/-- Log 15: a command placed as the next word runs at the very next step, from any state. -/
def Obligations.PlacedWordRunsNext : Prop :=
  ∀ (s t : State) (w : Nat) (i : Instr), decodeTableWord 32 w = some i →
    exec i { s with
        rst := false, cmdr := BitVec.ofNat 32 w, upc := 0, done := false, res := .OK, rxv := false, rxd := 0x00#8,
        busy := true } = .next t →
    step (s.withFetchWord 32 w) = .next (observe t)

/-- R67, R70: `turnsOf` lets the environment set the data wire before each sequencer step; then the machine's steps are
the run `execRun` gives, but for the observer's record. -/
def Obligations.StepsFollowExecRun : Prop :=
  ∀ (i : Instr) (ls : List Level) (s t : State) (rest : List Turn), s.rst = false → decode s.cmdr = .ok i →
    (∀ (k : Nat) (u : State), k < ls.length → execRun i (ls.take k) s = .next u → u.busy = true) →
    execRun i ls s = .next t → s.agenda = turnsOf ls ++ rest →
    ∃ u, runSteps (2 * ls.length) s = .next u ∧ u.agenda = rest ∧
      { u with wave := t.wave, agenda := t.agenda } = t

/-! ## Who writes what: rules over all steps -/

/-- R24, R25: `CMDR` is written only by acceptance and reset; `UPC` is set to 0 by them, incremented by one in each step
of the sequencer and not written otherwise. -/
def Obligations.CommandAndIndexWrites : Prop :=
  ∀ s t : State, step s = .next t →
    (t.cmdr ≠ s.cmdr →
      (∃ rest, s.agenda = .assertReset :: rest) ∨
      (∃ w rest, s.agenda = .hostWrite 0 w :: rest ∧ s.busy = false ∧ s.rst = false ∧ t.cmdr = w ∧ t.upc = 0)) ∧
    (t.upc ≠ s.upc →
      (∃ rest, s.agenda = .assertReset :: rest) ∨
      (∃ w rest, s.agenda = .hostWrite 0 w :: rest ∧ s.busy = false ∧ s.rst = false ∧ t.upc = 0) ∨
      (s.busy = true ∧ s.rst = false ∧ t.upc = s.upc + 1))

/-- R19, R37 (b): the three pin registers are written by the sequencer while a command runs, and by reset; neither the
host nor the environment has a path to them. -/
def Obligations.PinsWrittenBySequencerOrReset : Prop :=
  ∀ s t : State, step s = .next t → t.pins ≠ s.pins →
    (∃ rest, s.agenda = .assertReset :: rest) ∨
    (s.busy = true ∧ s.rst = false ∧ (s.agenda = [] ∨ ∃ rest, s.agenda = .sequencer :: rest))

/-- R26: `ACKF` changes only at a sample of a transmitted byte's ack phase (never in an RXBYTE, and never at an
acceptance), to the flag of the level sampled, and at reset. -/
def Obligations.AckfChangesOnlyAtSamples : Prop :=
  ∀ s t : State, step s = .next t → t.ackf ≠ s.ackf →
    (∃ rest, s.agenda = .assertReset :: rest) ∨
    (∃ i l, decode s.cmdr = .ok i ∧ t.tr = s.tr ++ [.RD l] ∧ t.ackf = ackOf l ∧
      ((∃ x, Sends i x ∧ s.upc = 53) ∨
       (∃ sa ra d, i = .wrreg sa ra d ∧ s.upc ∈ [61, 118, 175]) ∨
       (∃ sa ra, i = .rdreg sa ra ∧ s.upc ∈ [61, 118, 183])))

/-- R17, R28: `BUSY` falls only in the step of the command's last micro-operation, with `DONE` set and `OST` IDLE, and at
reset: nothing else stops a command. -/
def Obligations.BusyFallsOnlyAtCompletionOrReset : Prop :=
  ∀ s t : State, step s = .next t → s.busy = true → t.busy = false →
    (∃ rest, s.agenda = .assertReset :: rest) ∨
    (∃ i, decode s.cmdr = .ok i ∧ s.upc + 1 = (routineOf i s.res).length ∧ t.upc = s.upc + 1 ∧ t.done = true ∧
      t.ost = .IDLE)

/-- R33: the trace grows by exactly one event in a step in which a micro-operation is performed, is emptied by reset,
and does not change otherwise: where it does not change no micro-operation is counted either, `UPC` being as it was
or set to 0 by an acceptance. -/
def Obligations.TraceGrowsByOneEvent : Prop :=
  ∀ s t : State, step s = .next t →
    (∃ rest, s.agenda = .assertReset :: rest ∧ t.tr = []) ∨
    (t.tr = s.tr ∧ t.pins = s.pins ∧
      (t.upc = s.upc ∨
        ∃ w rest, s.agenda = .hostWrite 0 w :: rest ∧ s.busy = false ∧ s.rst = false ∧ t.upc = 0)) ∨
    (s.busy = true ∧ s.rst = false ∧ t.upc = s.upc + 1 ∧ ∃ e, t.tr = s.tr ++ [e])

/-- R67, R35: what the environment holds on the data wire is seen only by a read: a micro-operation that appends no
`RD` event does the same whatever it holds. -/
def Obligations.EnvironmentSeenOnlyByReads : Prop :=
  ∀ (i : Instr) (s t u : State) (l : Level), exec i s = .next t → exec i (holdSda l s) = .next u →
    (∀ v, t.tr ≠ s.tr ++ [.RD v]) → u = holdSda l t

/-! ## Frames: what a command leaves unchanged (the block has no memory to frame) -/

/-- START, STOP (register only): beside the pins, `UPC`, `TR` and, in the last step, `BUSY`, `DONE`, `OST`, nothing
changes. -/
def Obligations.ConditionCommandsFrame : Prop :=
  ∀ (i : Instr) (s t : State), i = .start ∨ i = .stop → exec i s = .next t →
    OutsideKept s t ∧ t.sh = s.sh ∧ t.rxd = s.rxd ∧ t.rxv = s.rxv ∧ t.ackf = s.ackf ∧ t.res = s.res ∧
    CompletesAt (s.upc = 7) s t ∧ (s.upc ≠ 7 → t.ost = s.ost)

/-- TXBYTE, ADDR: the same, and `ACKF` changes only at offset 53. -/
def Obligations.TransmitCommandsFrame : Prop :=
  ∀ (i : Instr) (x : Byte) (s t : State), Sends i x → exec i s = .next t →
    OutsideKept s t ∧ t.sh = s.sh ∧ t.rxd = s.rxd ∧ t.rxv = s.rxv ∧ t.res = s.res ∧
    (s.upc ≠ 53 → t.ackf = s.ackf) ∧ CompletesAt (s.upc = 56) s t ∧ (s.upc ≠ 56 → t.ost = s.ost)

/-- RXBYTE: `ACKF` and `RES` never change; `SH` changes only at offset 0 and the samples, `RXD`, `RXV` only at 72. -/
def Obligations.ReceiveCommandFrame : Prop :=
  ∀ (p : AckFlag) (s t : State), exec (.rxbyte p) s = .next t →
    OutsideKept s t ∧ t.ackf = s.ackf ∧ t.res = s.res ∧
    (s.upc ∉ [0, 5, 13, 21, 29, 37, 45, 53, 61] → t.sh = s.sh) ∧
    (s.upc ≠ 72 → t.rxd = s.rxd ∧ t.rxv = s.rxv) ∧ CompletesAt (s.upc = 72) s t ∧ (s.upc ≠ 72 → t.ost = s.ost)

/-- WRREG, RDREG: `OST` changes only in the last step of a stage that has a name (and at completion). The rest of their
frame is in `WrregStepAnswersNext` and `RdregStepAnswersNext`. -/
def Obligations.CompositeCommandsOrchestratorFrame : Prop :=
  (∀ (sa ra d : Byte) (s t : State), exec (.wrreg sa ra d) s = .next t →
    s.upc ∉ [7, 64, 178] → s.upc + 1 ≠ wrregLength s.res → t.ost = s.ost) ∧
  (∀ (sa ra : Byte) (s t : State), exec (.rdreg sa ra) s = .next t →
    s.upc ∉ [7, 64, 129, 186, 259] → s.upc + 1 ≠ rdregLength s.res → t.ost = s.ost)

/-! ## Invariants (spec 10_state.md section 9) -/

/-- The reset state meets the invariant. -/
def Obligations.ResetMeetsInvariant : Prop := Inv State.reset

/-- Every step keeps the invariant, from every state that meets it, whichever agent moves. -/
def Obligations.StepKeepsInvariant : Prop :=
  ∀ s t : State, Inv s → step s = .next t → Inv t

/-- R37 (a), R24, R121: no step of a state that meets the invariant faults or is refused: in particular every
`ReadDataLine` is performed with the direction IN, and `UPC` never passes the command's last micro-operation. -/
def Obligations.InvariantStateNeverStops : Prop :=
  ∀ s : State, Inv s → ∃ t, step s = .next t

/-- R17, R89, R123: a running command completes, after at most 268 micro-operations in all, whatever levels it samples.
The run is one with nothing scheduled, in which the host is silent and the environment free: that is the model's
choice (log 3). -/
def Obligations.EveryCommandCompletes : Prop :=
  ∀ s : State, Inv s → s.busy = true → s.agenda = [] →
    ∃ n t, n + s.upc ≤ 268 ∧ runSteps n s = .next t ∧ t.upc = s.upc + n ∧ t.busy = false ∧ t.done = true ∧
      t.ost = .IDLE ∧ t.pins.idleSafe

/-- R73 (d), R79, R118: the block's hold on the data wire changes while its clock is high only at the START edge of a
`Start()` and the STOP edge of a `Stop()`. -/
def Obligations.DataMovesOnlyUnderLowClock : Prop :=
  ∀ (s t : State) (i : Instr), Inv s → s.busy = true → decode s.cmdr = .ok i → sequencerTurn s = .next t →
    sdaPullLow t ≠ sdaPullLow s → s.sclOut = .L ∨ s.upc ∈ edgeOffsets i s.res

/-- R32, R27, R37 (d) (the spec marks the zero as `[derived: from rule R22 and rule R27]`): RXDATA reads `RXD`, and zero
whenever `STATUS.RXV = 0`, also while a byte is half received; `RXV` is set only in the step that writes `RXD` with
`SH`, and both are cleared by every acceptance. -/
def Obligations.RxdataZeroUntilValid : Prop :=
  (∀ s : State, (hostRead 2 s).extractLsb' 0 8 = s.rxd ∧ (hostRead 2 s).extractLsb' 8 24 = 0#24) ∧
  (∀ s : State, Inv s → (hostRead 1 s).getLsbD 3 = false → hostRead 2 s = 0x00000000#32) ∧
  (∀ s t : State, step s = .next t → s.rxv = false → t.rxv = true → t.rxd = s.sh) ∧
  ∀ (w : Word) (s : State), s.busy = false → (hostWrite 0 w s).rxv = false ∧ (hostWrite 0 w s).rxd = 0x00#8

/-! ## The observer and the sums of delays -/

/-- R71, R83: with an environment that holds neither wire, a START adds one START event and a STOP one STOP event to
what the observer saw, from any pins the invariant allows between commands, after any wire history that does not
stand at a ninth bit (a repeated START after a byte among them). -/
def Obligations.ConditionsShowOnTheWires : Prop :=
  ∀ s : State, AtFirstOp s → (bitGroup s.wave).length < 8 → s.agenda = sequencerTurns 8 →
    (decode s.cmdr = .ok .start → ∃ t, runSteps 8 s = .next t ∧ Showed [.START] s t) ∧
    (decode s.cmdr = .ok .stop → ∃ t, runSteps 8 s = .next t ∧ Showed [.STOP] s t)

/-- R71, R83: with a slave that moves the data wire only under a low clock (95_test_vectors.md section 0), each byte
command adds one BYTE event, with its value and its acknowledge, and no START or STOP, from any pins the invariant
allows between commands (the idle bus among them) and any wire history that ends between bytes: TXBYTE and ADDR
with the answer of the slave, RXBYTE with the bits the slave gave and the policy's acknowledge. -/
def Obligations.BytesShowOnTheWires : Prop :=
  ∀ s : State, AtFirstOp s → bitGroup s.wave = [] →
    (∀ (i : Instr) (x : Byte) (a : Level), Sends i x → decode s.cmdr = .ok i → s.agenda = answeringSlave a →
      ∃ t, runSteps 59 s = .next t ∧ Showed [.BYTE x (ackOf a)] s t) ∧
    (∀ (p : AckFlag) (bits : List Level), bits.length = 8 → decode s.cmdr = .ok (.rxbyte p) →
      s.agenda = sendingSlave bits →
      ∃ t, runSteps 82 s = .next t ∧ Showed [.BYTE (byteOf bits) p] s t)

/-- R124: the sums of delay counts of the routines, for every configuration with `T_SETTLE <= T_HIGH`. -/
def Obligations.DelaySums : Prop :=
  ∀ (cfg : BusConfiguration) (x sa ra d : Byte) (p : AckFlag) (dir : Access) (b : Bool), cfg.tSettle ≤ cfg.tHigh →
    let P := cfg.tLow + cfg.tHigh
    let A := cfg.tAckLow1 + cfg.tAckHigh1 + cfg.tAckHigh2 + cfg.tAckLow2
    let start := cfg.tBuf + cfg.tSuSta + cfg.tHdSta
    let stop := cfg.tLow + cfg.tSuSto + cfg.tBuf
    delayTotal cfg (transmitBit b) = P ∧ delayTotal cfg receiveBit = P ∧
    delayTotal cfg (routineOf (.txbyte x) .OK) = 8 * P + A ∧
    delayTotal cfg (routineOf (.addr sa dir) .OK) = 8 * P + A ∧
    delayTotal cfg (routineOf (.rxbyte p) .OK) = 8 * P + A ∧
    delayTotal cfg (routineOf .start .OK) = start ∧ delayTotal cfg (routineOf .stop .OK) = stop ∧
    delayTotal cfg (routineOf (.wrreg sa ra d) .OK) = start + 3 * (8 * P + A) + stop ∧
    delayTotal cfg (routineOf (.wrreg sa ra d) .NACK_ADDRESS) = start + (8 * P + A) + stop ∧
    delayTotal cfg (routineOf (.wrreg sa ra d) .NACK_REGISTER) = start + 2 * (8 * P + A) + stop ∧
    delayTotal cfg (routineOf (.rdreg sa ra) .OK) = 2 * start + 4 * (8 * P + A) + stop ∧
    delayTotal cfg (routineOf (.rdreg sa ra) .NACK_READDRESS) = 2 * start + 3 * (8 * P + A) + stop
end

