-- ==== Sys2Proof/Laws/Decode.lean ====
section
/-! SUPPORT. The fields of a word in format C, and what the decoder accepts (spec 30_encoding.md R52, R54, R55). -/

namespace Sys2Proof

theorem formatC_getLsbD (o a b c : Byte) (i : Nat) :
    (formatC o a b c).getLsbD i =
      if i < 8 then c.getLsbD i
      else if i < 16 then b.getLsbD (i - 8)
      else if i < 24 then a.getLsbD (i - 16)
      else o.getLsbD (i - 24) := by
  simp only [formatC, BitVec.getLsbD_append]
  rcases Nat.lt_or_ge i 8 with h | h
  · simp [h]
  rcases Nat.lt_or_ge i 16 with h' | h'
  · simp [h', show ¬ i < 8 by omega, show i - 8 < 8 by omega]
  rcases Nat.lt_or_ge i 24 with h'' | h''
  · simp [h'', show ¬ i < 8 by omega, show ¬ i < 16 by omega, show ¬ i - 8 < 8 by omega,
      show i - 8 - 8 = i - 16 by omega, show i - 16 < 8 by omega]
  · simp [show ¬ i < 8 by omega, show ¬ i < 16 by omega, show ¬ i < 24 by omega, show ¬ i - 8 < 8 by omega,
      show ¬ i - 8 - 8 < 8 by omega, show i - 8 - 8 - 8 = i - 24 by omega]

@[simp] theorem fieldOpc_formatC (o a b c : Byte) : fieldOpc (formatC o a b c) = o := by
  apply BitVec.eq_of_getLsbD_eq
  intro i hi
  simp [fieldOpc, formatC_getLsbD, hi, show ¬ 24 + i < 8 by omega,
    show ¬ 24 + i < 16 by omega]

@[simp] theorem fieldA_formatC (o a b c : Byte) : fieldA (formatC o a b c) = a := by
  apply BitVec.eq_of_getLsbD_eq
  intro i hi
  simp [fieldA, formatC_getLsbD, hi, show ¬ 16 + i < 8 by omega,
    show 16 + i < 24 by omega]

@[simp] theorem fieldB_formatC (o a b c : Byte) : fieldB (formatC o a b c) = b := by
  apply BitVec.eq_of_getLsbD_eq
  intro i hi
  simp [fieldB, formatC_getLsbD, hi, show 8 + i < 16 by omega]

@[simp] theorem fieldC_formatC (o a b c : Byte) : fieldC (formatC o a b c) = c := by
  apply BitVec.eq_of_getLsbD_eq
  intro i hi
  simp [fieldC, formatC_getLsbD, hi]

@[simp] theorem oneBitField_bit (b : Bool) : (oneBitField b).getLsbD 0 = b := by cases b <;> rfl

@[simp] theorem ackOfBit_toBit (p : AckFlag) : ackOfBit p.toBit = p := by cases p <;> rfl

@[simp] theorem accessOfBit_toBit (d : Access) : accessOfBit d.toBit = d := by cases d <;> rfl

/-- The opcodes of R55 are the numbers 1 to 7. -/
theorem legalOpcode_iff (o : Byte) :
    legalOpcode o = true ↔ o = 0x01#8 ∨ o = 0x02#8 ∨ o = 0x03#8 ∨ o = 0x04#8 ∨ o = 0x05#8 ∨ o = 0x06#8 ∨ o = 0x07#8 := by
  simp only [legalOpcode, decide_eq_true_eq, ← BitVec.toNat_inj]
  simp
  omega

/-- R54, R56: a word decodes to a command exactly when its opcode is legal. -/
theorem decode_ok_of_legal {w : Word} (h : legalOpcode (fieldOpc w) = true) : ∃ i, decode w = .ok i := by
  rcases (legalOpcode_iff _).mp h with h | h | h | h | h | h | h <;> simp [decode, h]

theorem decode_error_of_reserved {w : Word} (h : legalOpcode (fieldOpc w) = false) :
    decode w = .error (.reservedOpcode (fieldOpc w)) := by
  have hn : ∀ o : Byte, legalOpcode o = true → fieldOpc w ≠ o := by
    intro o ho he; rw [he, ho] at h; cases h
  simp [decode, hn 0x01#8 (by decide), hn 0x02#8 (by decide), hn 0x03#8 (by decide), hn 0x04#8 (by decide),
    hn 0x05#8 (by decide), hn 0x06#8 (by decide), hn 0x07#8 (by decide)]

end Sys2Proof
end

