-- ==== Sys2Proof/Laws/State.lean ====
section
/-! SUPPORT. One lemma per field per update: what each named update of the state makes of each field. -/

namespace Sys2Proof.Machine

/-! ## `tick` (one event, one micro-operation more) -/

@[simp] theorem tick_sclOut (e : Event) (s : State) : (tick e s).sclOut = s.sclOut := rfl
@[simp] theorem tick_sdaOut (e : Event) (s : State) : (tick e s).sdaOut = s.sdaOut := rfl
@[simp] theorem tick_sdaDir (e : Event) (s : State) : (tick e s).sdaDir = s.sdaDir := rfl
@[simp] theorem tick_cmdr (e : Event) (s : State) : (tick e s).cmdr = s.cmdr := rfl
@[simp] theorem tick_sh (e : Event) (s : State) : (tick e s).sh = s.sh := rfl
@[simp] theorem tick_rxd (e : Event) (s : State) : (tick e s).rxd = s.rxd := rfl
@[simp] theorem tick_ost (e : Event) (s : State) : (tick e s).ost = s.ost := rfl
@[simp] theorem tick_upc (e : Event) (s : State) : (tick e s).upc = s.upc + 1 := rfl
@[simp] theorem tick_ackf (e : Event) (s : State) : (tick e s).ackf = s.ackf := rfl
@[simp] theorem tick_rxv (e : Event) (s : State) : (tick e s).rxv = s.rxv := rfl
@[simp] theorem tick_busy (e : Event) (s : State) : (tick e s).busy = s.busy := rfl
@[simp] theorem tick_done (e : Event) (s : State) : (tick e s).done = s.done := rfl
@[simp] theorem tick_rej (e : Event) (s : State) : (tick e s).rej = s.rej := rfl
@[simp] theorem tick_res (e : Event) (s : State) : (tick e s).res = s.res := rfl
@[simp] theorem tick_tr (e : Event) (s : State) : (tick e s).tr = s.tr ++ [e] := rfl
@[simp] theorem tick_rst (e : Event) (s : State) : (tick e s).rst = s.rst := rfl
@[simp] theorem tick_envScl (e : Event) (s : State) : (tick e s).envScl = s.envScl := rfl
@[simp] theorem tick_envSda (e : Event) (s : State) : (tick e s).envSda = s.envSda := rfl
@[simp] theorem tick_agenda (e : Event) (s : State) : (tick e s).agenda = s.agenda := rfl
@[simp] theorem tick_reads (e : Event) (s : State) : (tick e s).reads = s.reads := rfl
@[simp] theorem tick_wave (e : Event) (s : State) : (tick e s).wave = s.wave := rfl
@[simp] theorem tick_draws (e : Event) (s : State) : (tick e s).draws = s.draws := rfl

/-! ## `setClockLine` (R64) -/

@[simp] theorem setClockLine_sclOut (l : Level) (s : State) : (setClockLine l s).sclOut = l := rfl
@[simp] theorem setClockLine_sdaOut (l : Level) (s : State) : (setClockLine l s).sdaOut = s.sdaOut := rfl
@[simp] theorem setClockLine_sdaDir (l : Level) (s : State) : (setClockLine l s).sdaDir = s.sdaDir := rfl
@[simp] theorem setClockLine_cmdr (l : Level) (s : State) : (setClockLine l s).cmdr = s.cmdr := rfl
@[simp] theorem setClockLine_sh (l : Level) (s : State) : (setClockLine l s).sh = s.sh := rfl
@[simp] theorem setClockLine_rxd (l : Level) (s : State) : (setClockLine l s).rxd = s.rxd := rfl
@[simp] theorem setClockLine_ost (l : Level) (s : State) : (setClockLine l s).ost = s.ost := rfl
@[simp] theorem setClockLine_upc (l : Level) (s : State) : (setClockLine l s).upc = s.upc + 1 := rfl
@[simp] theorem setClockLine_ackf (l : Level) (s : State) : (setClockLine l s).ackf = s.ackf := rfl
@[simp] theorem setClockLine_rxv (l : Level) (s : State) : (setClockLine l s).rxv = s.rxv := rfl
@[simp] theorem setClockLine_busy (l : Level) (s : State) : (setClockLine l s).busy = s.busy := rfl
@[simp] theorem setClockLine_done (l : Level) (s : State) : (setClockLine l s).done = s.done := rfl
@[simp] theorem setClockLine_rej (l : Level) (s : State) : (setClockLine l s).rej = s.rej := rfl
@[simp] theorem setClockLine_res (l : Level) (s : State) : (setClockLine l s).res = s.res := rfl
@[simp] theorem setClockLine_tr (l : Level) (s : State) : (setClockLine l s).tr = s.tr ++ [.SCL l] := rfl
@[simp] theorem setClockLine_rst (l : Level) (s : State) : (setClockLine l s).rst = s.rst := rfl
@[simp] theorem setClockLine_envScl (l : Level) (s : State) : (setClockLine l s).envScl = s.envScl := rfl
@[simp] theorem setClockLine_envSda (l : Level) (s : State) : (setClockLine l s).envSda = s.envSda := rfl
@[simp] theorem setClockLine_agenda (l : Level) (s : State) : (setClockLine l s).agenda = s.agenda := rfl
@[simp] theorem setClockLine_reads (l : Level) (s : State) : (setClockLine l s).reads = s.reads := rfl
@[simp] theorem setClockLine_wave (l : Level) (s : State) : (setClockLine l s).wave = s.wave := rfl
@[simp] theorem setClockLine_draws (l : Level) (s : State) : (setClockLine l s).draws = s.draws := rfl

/-! ## `setDataLine` (R65) -/

@[simp] theorem setDataLine_sclOut (l : Level) (s : State) : (setDataLine l s).sclOut = s.sclOut := rfl
@[simp] theorem setDataLine_sdaOut (l : Level) (s : State) : (setDataLine l s).sdaOut = l := rfl
@[simp] theorem setDataLine_sdaDir (l : Level) (s : State) : (setDataLine l s).sdaDir = s.sdaDir := rfl
@[simp] theorem setDataLine_cmdr (l : Level) (s : State) : (setDataLine l s).cmdr = s.cmdr := rfl
@[simp] theorem setDataLine_sh (l : Level) (s : State) : (setDataLine l s).sh = s.sh := rfl
@[simp] theorem setDataLine_rxd (l : Level) (s : State) : (setDataLine l s).rxd = s.rxd := rfl
@[simp] theorem setDataLine_ost (l : Level) (s : State) : (setDataLine l s).ost = s.ost := rfl
@[simp] theorem setDataLine_upc (l : Level) (s : State) : (setDataLine l s).upc = s.upc + 1 := rfl
@[simp] theorem setDataLine_ackf (l : Level) (s : State) : (setDataLine l s).ackf = s.ackf := rfl
@[simp] theorem setDataLine_rxv (l : Level) (s : State) : (setDataLine l s).rxv = s.rxv := rfl
@[simp] theorem setDataLine_busy (l : Level) (s : State) : (setDataLine l s).busy = s.busy := rfl
@[simp] theorem setDataLine_done (l : Level) (s : State) : (setDataLine l s).done = s.done := rfl
@[simp] theorem setDataLine_rej (l : Level) (s : State) : (setDataLine l s).rej = s.rej := rfl
@[simp] theorem setDataLine_res (l : Level) (s : State) : (setDataLine l s).res = s.res := rfl
@[simp] theorem setDataLine_tr (l : Level) (s : State) : (setDataLine l s).tr = s.tr ++ [.SDA l] := rfl
@[simp] theorem setDataLine_rst (l : Level) (s : State) : (setDataLine l s).rst = s.rst := rfl
@[simp] theorem setDataLine_envScl (l : Level) (s : State) : (setDataLine l s).envScl = s.envScl := rfl
@[simp] theorem setDataLine_envSda (l : Level) (s : State) : (setDataLine l s).envSda = s.envSda := rfl
@[simp] theorem setDataLine_agenda (l : Level) (s : State) : (setDataLine l s).agenda = s.agenda := rfl
@[simp] theorem setDataLine_reads (l : Level) (s : State) : (setDataLine l s).reads = s.reads := rfl
@[simp] theorem setDataLine_wave (l : Level) (s : State) : (setDataLine l s).wave = s.wave := rfl
@[simp] theorem setDataLine_draws (l : Level) (s : State) : (setDataLine l s).draws = s.draws := rfl

/-! ## `setDataDirection` (R66) -/

@[simp] theorem setDataDirection_sclOut (d : Dir) (s : State) : (setDataDirection d s).sclOut = s.sclOut := rfl
@[simp] theorem setDataDirection_sdaOut (d : Dir) (s : State) : (setDataDirection d s).sdaOut = s.sdaOut := rfl
@[simp] theorem setDataDirection_sdaDir (d : Dir) (s : State) : (setDataDirection d s).sdaDir = d := rfl
@[simp] theorem setDataDirection_cmdr (d : Dir) (s : State) : (setDataDirection d s).cmdr = s.cmdr := rfl
@[simp] theorem setDataDirection_sh (d : Dir) (s : State) : (setDataDirection d s).sh = s.sh := rfl
@[simp] theorem setDataDirection_rxd (d : Dir) (s : State) : (setDataDirection d s).rxd = s.rxd := rfl
@[simp] theorem setDataDirection_ost (d : Dir) (s : State) : (setDataDirection d s).ost = s.ost := rfl
@[simp] theorem setDataDirection_upc (d : Dir) (s : State) : (setDataDirection d s).upc = s.upc + 1 := rfl
@[simp] theorem setDataDirection_ackf (d : Dir) (s : State) : (setDataDirection d s).ackf = s.ackf := rfl
@[simp] theorem setDataDirection_rxv (d : Dir) (s : State) : (setDataDirection d s).rxv = s.rxv := rfl
@[simp] theorem setDataDirection_busy (d : Dir) (s : State) : (setDataDirection d s).busy = s.busy := rfl
@[simp] theorem setDataDirection_done (d : Dir) (s : State) : (setDataDirection d s).done = s.done := rfl
@[simp] theorem setDataDirection_rej (d : Dir) (s : State) : (setDataDirection d s).rej = s.rej := rfl
@[simp] theorem setDataDirection_res (d : Dir) (s : State) : (setDataDirection d s).res = s.res := rfl
@[simp] theorem setDataDirection_tr (d : Dir) (s : State) : (setDataDirection d s).tr = s.tr ++ [.DIR d] := rfl
@[simp] theorem setDataDirection_rst (d : Dir) (s : State) : (setDataDirection d s).rst = s.rst := rfl
@[simp] theorem setDataDirection_envScl (d : Dir) (s : State) : (setDataDirection d s).envScl = s.envScl := rfl
@[simp] theorem setDataDirection_envSda (d : Dir) (s : State) : (setDataDirection d s).envSda = s.envSda := rfl
@[simp] theorem setDataDirection_agenda (d : Dir) (s : State) : (setDataDirection d s).agenda = s.agenda := rfl
@[simp] theorem setDataDirection_reads (d : Dir) (s : State) : (setDataDirection d s).reads = s.reads := rfl
@[simp] theorem setDataDirection_wave (d : Dir) (s : State) : (setDataDirection d s).wave = s.wave := rfl
@[simp] theorem setDataDirection_draws (d : Dir) (s : State) : (setDataDirection d s).draws = s.draws := rfl

/-! ## `readDataLine` (R67) -/

@[simp] theorem readDataLine_sclOut (v : Level) (s : State) : (readDataLine v s).sclOut = s.sclOut := rfl
@[simp] theorem readDataLine_sdaOut (v : Level) (s : State) : (readDataLine v s).sdaOut = s.sdaOut := rfl
@[simp] theorem readDataLine_sdaDir (v : Level) (s : State) : (readDataLine v s).sdaDir = s.sdaDir := rfl
@[simp] theorem readDataLine_cmdr (v : Level) (s : State) : (readDataLine v s).cmdr = s.cmdr := rfl
@[simp] theorem readDataLine_sh (v : Level) (s : State) : (readDataLine v s).sh = s.sh := rfl
@[simp] theorem readDataLine_rxd (v : Level) (s : State) : (readDataLine v s).rxd = s.rxd := rfl
@[simp] theorem readDataLine_ost (v : Level) (s : State) : (readDataLine v s).ost = s.ost := rfl
@[simp] theorem readDataLine_upc (v : Level) (s : State) : (readDataLine v s).upc = s.upc + 1 := rfl
@[simp] theorem readDataLine_ackf (v : Level) (s : State) : (readDataLine v s).ackf = s.ackf := rfl
@[simp] theorem readDataLine_rxv (v : Level) (s : State) : (readDataLine v s).rxv = s.rxv := rfl
@[simp] theorem readDataLine_busy (v : Level) (s : State) : (readDataLine v s).busy = s.busy := rfl
@[simp] theorem readDataLine_done (v : Level) (s : State) : (readDataLine v s).done = s.done := rfl
@[simp] theorem readDataLine_rej (v : Level) (s : State) : (readDataLine v s).rej = s.rej := rfl
@[simp] theorem readDataLine_res (v : Level) (s : State) : (readDataLine v s).res = s.res := rfl
@[simp] theorem readDataLine_tr (v : Level) (s : State) : (readDataLine v s).tr = s.tr ++ [.RD v] := rfl
@[simp] theorem readDataLine_rst (v : Level) (s : State) : (readDataLine v s).rst = s.rst := rfl
@[simp] theorem readDataLine_envScl (v : Level) (s : State) : (readDataLine v s).envScl = s.envScl := rfl
@[simp] theorem readDataLine_envSda (v : Level) (s : State) : (readDataLine v s).envSda = s.envSda := rfl
@[simp] theorem readDataLine_agenda (v : Level) (s : State) : (readDataLine v s).agenda = s.agenda := rfl
@[simp] theorem readDataLine_reads (v : Level) (s : State) : (readDataLine v s).reads = s.reads := rfl
@[simp] theorem readDataLine_wave (v : Level) (s : State) : (readDataLine v s).wave = s.wave := rfl
@[simp] theorem readDataLine_draws (v : Level) (s : State) : (readDataLine v s).draws = s.draws := rfl

/-! ## `delay` (R68) -/

@[simp] theorem delay_sclOut (name : DelayName) (s : State) : (delay name s).sclOut = s.sclOut := rfl
@[simp] theorem delay_sdaOut (name : DelayName) (s : State) : (delay name s).sdaOut = s.sdaOut := rfl
@[simp] theorem delay_sdaDir (name : DelayName) (s : State) : (delay name s).sdaDir = s.sdaDir := rfl
@[simp] theorem delay_cmdr (name : DelayName) (s : State) : (delay name s).cmdr = s.cmdr := rfl
@[simp] theorem delay_sh (name : DelayName) (s : State) : (delay name s).sh = s.sh := rfl
@[simp] theorem delay_rxd (name : DelayName) (s : State) : (delay name s).rxd = s.rxd := rfl
@[simp] theorem delay_ost (name : DelayName) (s : State) : (delay name s).ost = s.ost := rfl
@[simp] theorem delay_upc (name : DelayName) (s : State) : (delay name s).upc = s.upc + 1 := rfl
@[simp] theorem delay_ackf (name : DelayName) (s : State) : (delay name s).ackf = s.ackf := rfl
@[simp] theorem delay_rxv (name : DelayName) (s : State) : (delay name s).rxv = s.rxv := rfl
@[simp] theorem delay_busy (name : DelayName) (s : State) : (delay name s).busy = s.busy := rfl
@[simp] theorem delay_done (name : DelayName) (s : State) : (delay name s).done = s.done := rfl
@[simp] theorem delay_rej (name : DelayName) (s : State) : (delay name s).rej = s.rej := rfl
@[simp] theorem delay_res (name : DelayName) (s : State) : (delay name s).res = s.res := rfl
@[simp] theorem delay_tr (name : DelayName) (s : State) : (delay name s).tr = s.tr ++ [.DLY name] := rfl
@[simp] theorem delay_rst (name : DelayName) (s : State) : (delay name s).rst = s.rst := rfl
@[simp] theorem delay_envScl (name : DelayName) (s : State) : (delay name s).envScl = s.envScl := rfl
@[simp] theorem delay_envSda (name : DelayName) (s : State) : (delay name s).envSda = s.envSda := rfl
@[simp] theorem delay_agenda (name : DelayName) (s : State) : (delay name s).agenda = s.agenda := rfl
@[simp] theorem delay_reads (name : DelayName) (s : State) : (delay name s).reads = s.reads := rfl
@[simp] theorem delay_wave (name : DelayName) (s : State) : (delay name s).wave = s.wave := rfl
@[simp] theorem delay_draws (name : DelayName) (s : State) : (delay name s).draws = s.draws := rfl

/-! ## `writeAckf` (R26) -/

@[simp] theorem writeAckf_sclOut (v : Level) (s : State) : (writeAckf v s).sclOut = s.sclOut := rfl
@[simp] theorem writeAckf_sdaOut (v : Level) (s : State) : (writeAckf v s).sdaOut = s.sdaOut := rfl
@[simp] theorem writeAckf_sdaDir (v : Level) (s : State) : (writeAckf v s).sdaDir = s.sdaDir := rfl
@[simp] theorem writeAckf_cmdr (v : Level) (s : State) : (writeAckf v s).cmdr = s.cmdr := rfl
@[simp] theorem writeAckf_sh (v : Level) (s : State) : (writeAckf v s).sh = s.sh := rfl
@[simp] theorem writeAckf_rxd (v : Level) (s : State) : (writeAckf v s).rxd = s.rxd := rfl
@[simp] theorem writeAckf_ost (v : Level) (s : State) : (writeAckf v s).ost = s.ost := rfl
@[simp] theorem writeAckf_upc (v : Level) (s : State) : (writeAckf v s).upc = s.upc := rfl
@[simp] theorem writeAckf_ackf (v : Level) (s : State) : (writeAckf v s).ackf = ackOfLevel v := rfl
@[simp] theorem writeAckf_rxv (v : Level) (s : State) : (writeAckf v s).rxv = s.rxv := rfl
@[simp] theorem writeAckf_busy (v : Level) (s : State) : (writeAckf v s).busy = s.busy := rfl
@[simp] theorem writeAckf_done (v : Level) (s : State) : (writeAckf v s).done = s.done := rfl
@[simp] theorem writeAckf_rej (v : Level) (s : State) : (writeAckf v s).rej = s.rej := rfl
@[simp] theorem writeAckf_res (v : Level) (s : State) : (writeAckf v s).res = s.res := rfl
@[simp] theorem writeAckf_tr (v : Level) (s : State) : (writeAckf v s).tr = s.tr := rfl
@[simp] theorem writeAckf_rst (v : Level) (s : State) : (writeAckf v s).rst = s.rst := rfl
@[simp] theorem writeAckf_envScl (v : Level) (s : State) : (writeAckf v s).envScl = s.envScl := rfl
@[simp] theorem writeAckf_envSda (v : Level) (s : State) : (writeAckf v s).envSda = s.envSda := rfl
@[simp] theorem writeAckf_agenda (v : Level) (s : State) : (writeAckf v s).agenda = s.agenda := rfl
@[simp] theorem writeAckf_reads (v : Level) (s : State) : (writeAckf v s).reads = s.reads := rfl
@[simp] theorem writeAckf_wave (v : Level) (s : State) : (writeAckf v s).wave = s.wave := rfl
@[simp] theorem writeAckf_draws (v : Level) (s : State) : (writeAckf v s).draws = s.draws := rfl

/-! ## `raiseNack` (R96) -/

@[simp] theorem raiseNack_sclOut (code : ResultCode) (s : State) : (raiseNack code s).sclOut = s.sclOut := rfl
@[simp] theorem raiseNack_sdaOut (code : ResultCode) (s : State) : (raiseNack code s).sdaOut = s.sdaOut := rfl
@[simp] theorem raiseNack_sdaDir (code : ResultCode) (s : State) : (raiseNack code s).sdaDir = s.sdaDir := rfl
@[simp] theorem raiseNack_cmdr (code : ResultCode) (s : State) : (raiseNack code s).cmdr = s.cmdr := rfl
@[simp] theorem raiseNack_sh (code : ResultCode) (s : State) : (raiseNack code s).sh = s.sh := rfl
@[simp] theorem raiseNack_rxd (code : ResultCode) (s : State) : (raiseNack code s).rxd = s.rxd := rfl
@[simp] theorem raiseNack_ost (code : ResultCode) (s : State) : (raiseNack code s).ost = s.ost := rfl
@[simp] theorem raiseNack_upc (code : ResultCode) (s : State) : (raiseNack code s).upc = s.upc := rfl
@[simp] theorem raiseNack_ackf (code : ResultCode) (s : State) : (raiseNack code s).ackf = .NACK := rfl
@[simp] theorem raiseNack_rxv (code : ResultCode) (s : State) : (raiseNack code s).rxv = s.rxv := rfl
@[simp] theorem raiseNack_busy (code : ResultCode) (s : State) : (raiseNack code s).busy = s.busy := rfl
@[simp] theorem raiseNack_done (code : ResultCode) (s : State) : (raiseNack code s).done = s.done := rfl
@[simp] theorem raiseNack_rej (code : ResultCode) (s : State) : (raiseNack code s).rej = s.rej := rfl
@[simp] theorem raiseNack_res (code : ResultCode) (s : State) : (raiseNack code s).res = code := rfl
@[simp] theorem raiseNack_tr (code : ResultCode) (s : State) : (raiseNack code s).tr = s.tr := rfl
@[simp] theorem raiseNack_rst (code : ResultCode) (s : State) : (raiseNack code s).rst = s.rst := rfl
@[simp] theorem raiseNack_envScl (code : ResultCode) (s : State) : (raiseNack code s).envScl = s.envScl := rfl
@[simp] theorem raiseNack_envSda (code : ResultCode) (s : State) : (raiseNack code s).envSda = s.envSda := rfl
@[simp] theorem raiseNack_agenda (code : ResultCode) (s : State) : (raiseNack code s).agenda = s.agenda := rfl
@[simp] theorem raiseNack_reads (code : ResultCode) (s : State) : (raiseNack code s).reads = s.reads := rfl
@[simp] theorem raiseNack_wave (code : ResultCode) (s : State) : (raiseNack code s).wave = s.wave := rfl
@[simp] theorem raiseNack_draws (code : ResultCode) (s : State) : (raiseNack code s).draws = s.draws := rfl

/-! ## `complete` (R29) -/

@[simp] theorem complete_sclOut (s : State) : (complete s).sclOut = s.sclOut := rfl
@[simp] theorem complete_sdaOut (s : State) : (complete s).sdaOut = s.sdaOut := rfl
@[simp] theorem complete_sdaDir (s : State) : (complete s).sdaDir = s.sdaDir := rfl
@[simp] theorem complete_cmdr (s : State) : (complete s).cmdr = s.cmdr := rfl
@[simp] theorem complete_sh (s : State) : (complete s).sh = s.sh := rfl
@[simp] theorem complete_rxd (s : State) : (complete s).rxd = s.rxd := rfl
@[simp] theorem complete_ost (s : State) : (complete s).ost = .IDLE := rfl
@[simp] theorem complete_upc (s : State) : (complete s).upc = s.upc := rfl
@[simp] theorem complete_ackf (s : State) : (complete s).ackf = s.ackf := rfl
@[simp] theorem complete_rxv (s : State) : (complete s).rxv = s.rxv := rfl
@[simp] theorem complete_busy (s : State) : (complete s).busy = false := rfl
@[simp] theorem complete_done (s : State) : (complete s).done = true := rfl
@[simp] theorem complete_rej (s : State) : (complete s).rej = s.rej := rfl
@[simp] theorem complete_res (s : State) : (complete s).res = s.res := rfl
@[simp] theorem complete_tr (s : State) : (complete s).tr = s.tr := rfl
@[simp] theorem complete_rst (s : State) : (complete s).rst = s.rst := rfl
@[simp] theorem complete_envScl (s : State) : (complete s).envScl = s.envScl := rfl
@[simp] theorem complete_envSda (s : State) : (complete s).envSda = s.envSda := rfl
@[simp] theorem complete_agenda (s : State) : (complete s).agenda = s.agenda := rfl
@[simp] theorem complete_reads (s : State) : (complete s).reads = s.reads := rfl
@[simp] theorem complete_wave (s : State) : (complete s).wave = s.wave := rfl
@[simp] theorem complete_draws (s : State) : (complete s).draws = s.draws := rfl

/-! ## `latchCommand` (R40) -/

@[simp] theorem latchCommand_sclOut (w : Word) (s : State) : (latchCommand w s).sclOut = s.sclOut := rfl
@[simp] theorem latchCommand_sdaOut (w : Word) (s : State) : (latchCommand w s).sdaOut = s.sdaOut := rfl
@[simp] theorem latchCommand_sdaDir (w : Word) (s : State) : (latchCommand w s).sdaDir = s.sdaDir := rfl
@[simp] theorem latchCommand_cmdr (w : Word) (s : State) : (latchCommand w s).cmdr = w := rfl
@[simp] theorem latchCommand_sh (w : Word) (s : State) : (latchCommand w s).sh = s.sh := rfl
@[simp] theorem latchCommand_rxd (w : Word) (s : State) : (latchCommand w s).rxd = 0x00#8 := rfl
@[simp] theorem latchCommand_ost (w : Word) (s : State) : (latchCommand w s).ost = s.ost := rfl
@[simp] theorem latchCommand_upc (w : Word) (s : State) : (latchCommand w s).upc = 0 := rfl
@[simp] theorem latchCommand_ackf (w : Word) (s : State) : (latchCommand w s).ackf = s.ackf := rfl
@[simp] theorem latchCommand_rxv (w : Word) (s : State) : (latchCommand w s).rxv = false := rfl
@[simp] theorem latchCommand_busy (w : Word) (s : State) : (latchCommand w s).busy = s.busy := rfl
@[simp] theorem latchCommand_done (w : Word) (s : State) : (latchCommand w s).done = false := rfl
@[simp] theorem latchCommand_rej (w : Word) (s : State) : (latchCommand w s).rej = s.rej := rfl
@[simp] theorem latchCommand_res (w : Word) (s : State) : (latchCommand w s).res = .OK := rfl
@[simp] theorem latchCommand_tr (w : Word) (s : State) : (latchCommand w s).tr = s.tr := rfl
@[simp] theorem latchCommand_rst (w : Word) (s : State) : (latchCommand w s).rst = s.rst := rfl
@[simp] theorem latchCommand_envScl (w : Word) (s : State) : (latchCommand w s).envScl = s.envScl := rfl
@[simp] theorem latchCommand_envSda (w : Word) (s : State) : (latchCommand w s).envSda = s.envSda := rfl
@[simp] theorem latchCommand_agenda (w : Word) (s : State) : (latchCommand w s).agenda = s.agenda := rfl
@[simp] theorem latchCommand_reads (w : Word) (s : State) : (latchCommand w s).reads = s.reads := rfl
@[simp] theorem latchCommand_wave (w : Word) (s : State) : (latchCommand w s).wave = s.wave := rfl
@[simp] theorem latchCommand_draws (w : Word) (s : State) : (latchCommand w s).draws = s.draws := rfl

/-! ## `completeIllegal` (R95) -/

@[simp] theorem completeIllegal_sclOut (s : State) : (completeIllegal s).sclOut = s.sclOut := rfl
@[simp] theorem completeIllegal_sdaOut (s : State) : (completeIllegal s).sdaOut = s.sdaOut := rfl
@[simp] theorem completeIllegal_sdaDir (s : State) : (completeIllegal s).sdaDir = s.sdaDir := rfl
@[simp] theorem completeIllegal_cmdr (s : State) : (completeIllegal s).cmdr = s.cmdr := rfl
@[simp] theorem completeIllegal_sh (s : State) : (completeIllegal s).sh = s.sh := rfl
@[simp] theorem completeIllegal_rxd (s : State) : (completeIllegal s).rxd = s.rxd := rfl
@[simp] theorem completeIllegal_ost (s : State) : (completeIllegal s).ost = s.ost := rfl
@[simp] theorem completeIllegal_upc (s : State) : (completeIllegal s).upc = s.upc := rfl
@[simp] theorem completeIllegal_ackf (s : State) : (completeIllegal s).ackf = s.ackf := rfl
@[simp] theorem completeIllegal_rxv (s : State) : (completeIllegal s).rxv = s.rxv := rfl
@[simp] theorem completeIllegal_busy (s : State) : (completeIllegal s).busy = s.busy := rfl
@[simp] theorem completeIllegal_done (s : State) : (completeIllegal s).done = true := rfl
@[simp] theorem completeIllegal_rej (s : State) : (completeIllegal s).rej = s.rej := rfl
@[simp] theorem completeIllegal_res (s : State) : (completeIllegal s).res = .ILLEGAL := rfl
@[simp] theorem completeIllegal_tr (s : State) : (completeIllegal s).tr = s.tr := rfl
@[simp] theorem completeIllegal_rst (s : State) : (completeIllegal s).rst = s.rst := rfl
@[simp] theorem completeIllegal_envScl (s : State) : (completeIllegal s).envScl = s.envScl := rfl
@[simp] theorem completeIllegal_envSda (s : State) : (completeIllegal s).envSda = s.envSda := rfl
@[simp] theorem completeIllegal_agenda (s : State) : (completeIllegal s).agenda = s.agenda := rfl
@[simp] theorem completeIllegal_reads (s : State) : (completeIllegal s).reads = s.reads := rfl
@[simp] theorem completeIllegal_wave (s : State) : (completeIllegal s).wave = s.wave := rfl
@[simp] theorem completeIllegal_draws (s : State) : (completeIllegal s).draws = s.draws := rfl

/-! ## `rejectBusy` (R98) -/

@[simp] theorem rejectBusy_sclOut (s : State) : (rejectBusy s).sclOut = s.sclOut := rfl
@[simp] theorem rejectBusy_sdaOut (s : State) : (rejectBusy s).sdaOut = s.sdaOut := rfl
@[simp] theorem rejectBusy_sdaDir (s : State) : (rejectBusy s).sdaDir = s.sdaDir := rfl
@[simp] theorem rejectBusy_cmdr (s : State) : (rejectBusy s).cmdr = s.cmdr := rfl
@[simp] theorem rejectBusy_sh (s : State) : (rejectBusy s).sh = s.sh := rfl
@[simp] theorem rejectBusy_rxd (s : State) : (rejectBusy s).rxd = s.rxd := rfl
@[simp] theorem rejectBusy_ost (s : State) : (rejectBusy s).ost = s.ost := rfl
@[simp] theorem rejectBusy_upc (s : State) : (rejectBusy s).upc = s.upc := rfl
@[simp] theorem rejectBusy_ackf (s : State) : (rejectBusy s).ackf = s.ackf := rfl
@[simp] theorem rejectBusy_rxv (s : State) : (rejectBusy s).rxv = s.rxv := rfl
@[simp] theorem rejectBusy_busy (s : State) : (rejectBusy s).busy = s.busy := rfl
@[simp] theorem rejectBusy_done (s : State) : (rejectBusy s).done = s.done := rfl
@[simp] theorem rejectBusy_rej (s : State) : (rejectBusy s).rej = true := rfl
@[simp] theorem rejectBusy_res (s : State) : (rejectBusy s).res = s.res := rfl
@[simp] theorem rejectBusy_tr (s : State) : (rejectBusy s).tr = s.tr := rfl
@[simp] theorem rejectBusy_rst (s : State) : (rejectBusy s).rst = s.rst := rfl
@[simp] theorem rejectBusy_envScl (s : State) : (rejectBusy s).envScl = s.envScl := rfl
@[simp] theorem rejectBusy_envSda (s : State) : (rejectBusy s).envSda = s.envSda := rfl
@[simp] theorem rejectBusy_agenda (s : State) : (rejectBusy s).agenda = s.agenda := rfl
@[simp] theorem rejectBusy_reads (s : State) : (rejectBusy s).reads = s.reads := rfl
@[simp] theorem rejectBusy_wave (s : State) : (rejectBusy s).wave = s.wave := rfl
@[simp] theorem rejectBusy_draws (s : State) : (rejectBusy s).draws = s.draws := rfl

/-! ## `holdSda` (the environment holds a level on the data wire) -/

@[simp] theorem holdSda_sclOut (l : Level) (s : State) : (holdSda l s).sclOut = s.sclOut := rfl
@[simp] theorem holdSda_sdaOut (l : Level) (s : State) : (holdSda l s).sdaOut = s.sdaOut := rfl
@[simp] theorem holdSda_sdaDir (l : Level) (s : State) : (holdSda l s).sdaDir = s.sdaDir := rfl
@[simp] theorem holdSda_cmdr (l : Level) (s : State) : (holdSda l s).cmdr = s.cmdr := rfl
@[simp] theorem holdSda_sh (l : Level) (s : State) : (holdSda l s).sh = s.sh := rfl
@[simp] theorem holdSda_rxd (l : Level) (s : State) : (holdSda l s).rxd = s.rxd := rfl
@[simp] theorem holdSda_ost (l : Level) (s : State) : (holdSda l s).ost = s.ost := rfl
@[simp] theorem holdSda_upc (l : Level) (s : State) : (holdSda l s).upc = s.upc := rfl
@[simp] theorem holdSda_ackf (l : Level) (s : State) : (holdSda l s).ackf = s.ackf := rfl
@[simp] theorem holdSda_rxv (l : Level) (s : State) : (holdSda l s).rxv = s.rxv := rfl
@[simp] theorem holdSda_busy (l : Level) (s : State) : (holdSda l s).busy = s.busy := rfl
@[simp] theorem holdSda_done (l : Level) (s : State) : (holdSda l s).done = s.done := rfl
@[simp] theorem holdSda_rej (l : Level) (s : State) : (holdSda l s).rej = s.rej := rfl
@[simp] theorem holdSda_res (l : Level) (s : State) : (holdSda l s).res = s.res := rfl
@[simp] theorem holdSda_tr (l : Level) (s : State) : (holdSda l s).tr = s.tr := rfl
@[simp] theorem holdSda_rst (l : Level) (s : State) : (holdSda l s).rst = s.rst := rfl
@[simp] theorem holdSda_envScl (l : Level) (s : State) : (holdSda l s).envScl = s.envScl := rfl
@[simp] theorem holdSda_envSda (l : Level) (s : State) : (holdSda l s).envSda = l := rfl
@[simp] theorem holdSda_agenda (l : Level) (s : State) : (holdSda l s).agenda = s.agenda := rfl
@[simp] theorem holdSda_reads (l : Level) (s : State) : (holdSda l s).reads = s.reads := rfl
@[simp] theorem holdSda_wave (l : Level) (s : State) : (holdSda l s).wave = s.wave := rfl
@[simp] theorem holdSda_draws (l : Level) (s : State) : (holdSda l s).draws = s.draws := rfl

/-! ## `observe` (R71): only the wave can change -/

@[simp] theorem observe_sclOut (s : State) : (observe s).sclOut = s.sclOut := by
  unfold observe; split <;> rfl
@[simp] theorem observe_sdaOut (s : State) : (observe s).sdaOut = s.sdaOut := by
  unfold observe; split <;> rfl
@[simp] theorem observe_sdaDir (s : State) : (observe s).sdaDir = s.sdaDir := by
  unfold observe; split <;> rfl
@[simp] theorem observe_cmdr (s : State) : (observe s).cmdr = s.cmdr := by
  unfold observe; split <;> rfl
@[simp] theorem observe_sh (s : State) : (observe s).sh = s.sh := by
  unfold observe; split <;> rfl
@[simp] theorem observe_rxd (s : State) : (observe s).rxd = s.rxd := by
  unfold observe; split <;> rfl
@[simp] theorem observe_ost (s : State) : (observe s).ost = s.ost := by
  unfold observe; split <;> rfl
@[simp] theorem observe_upc (s : State) : (observe s).upc = s.upc := by
  unfold observe; split <;> rfl
@[simp] theorem observe_ackf (s : State) : (observe s).ackf = s.ackf := by
  unfold observe; split <;> rfl
@[simp] theorem observe_rxv (s : State) : (observe s).rxv = s.rxv := by
  unfold observe; split <;> rfl
@[simp] theorem observe_busy (s : State) : (observe s).busy = s.busy := by
  unfold observe; split <;> rfl
@[simp] theorem observe_done (s : State) : (observe s).done = s.done := by
  unfold observe; split <;> rfl
@[simp] theorem observe_rej (s : State) : (observe s).rej = s.rej := by
  unfold observe; split <;> rfl
@[simp] theorem observe_res (s : State) : (observe s).res = s.res := by
  unfold observe; split <;> rfl
@[simp] theorem observe_tr (s : State) : (observe s).tr = s.tr := by
  unfold observe; split <;> rfl
@[simp] theorem observe_rst (s : State) : (observe s).rst = s.rst := by
  unfold observe; split <;> rfl
@[simp] theorem observe_envScl (s : State) : (observe s).envScl = s.envScl := by
  unfold observe; split <;> rfl
@[simp] theorem observe_envSda (s : State) : (observe s).envSda = s.envSda := by
  unfold observe; split <;> rfl
@[simp] theorem observe_agenda (s : State) : (observe s).agenda = s.agenda := by
  unfold observe; split <;> rfl
@[simp] theorem observe_reads (s : State) : (observe s).reads = s.reads := by
  unfold observe; split <;> rfl
@[simp] theorem observe_draws (s : State) : (observe s).draws = s.draws := by
  unfold observe; split <;> rfl

/-! ## Derived views -/

@[simp] theorem observe_wires (s : State) : wires (observe s) = wires s := by
  simp [wires, wireScl, wireSda, sclPullLow, sdaPullLow]

theorem observe_observed (s : State) : (observe s).wave.getLast? = some (wires (observe s)) := by
  rw [observe_wires]
  unfold observe
  split
  · assumption
  · simp

@[simp] theorem observe_pins (s : State) : (observe s).pins = s.pins := by simp [State.pins]

@[simp] theorem complete_pins (s : State) : (complete s).pins = s.pins := rfl

@[simp] theorem hostRead_cmd (s : State) : hostRead 0 s = s.cmdr := rfl
@[simp] theorem hostRead_status (s : State) : hostRead 1 s = statusWord s := rfl
@[simp] theorem hostRead_rxdata (s : State) : hostRead 2 s = rxdataWord s := rfl

theorem hostRead_unmapped (n : Nat) (hn : 2 < n) (s : State) : hostRead n s = 0#32 := by
  match n, hn with
  | n + 3, _ => rfl

theorem hostWrite_readOnly (n : Nat) (hn : 0 < n) (w : Word) (s : State) : hostWrite n w s = s := by
  match n, hn with
  | n + 1, _ => rfl

end Sys2Proof.Machine
end

