-- ==== Sys2Proof/Laws/Ops.lean ====
section
/-! SUPPORT. What the shared operations can do, said once: the micro-operation, the attached writes, one step of a
routine, the meaning of a command as its routine. -/

namespace Sys2Proof.Machine

/-! ## The meaning of a command is its routine -/

theorem exec_eq_performAt (i : Instr) (s : State) : exec i s = performAt (routineOf i s.res) s := by
  cases i <;> rfl

/-! ## A micro-operation -/

@[simp] theorem microOp_upc (v : Level) (m : MicroOp) (s : State) : (microOp v m s).upc = s.upc + 1 := by
  cases m <;> rfl

@[simp] theorem microOp_pins (v : Level) (m : MicroOp) (s : State) : (microOp v m s).pins = s.pins.after m := by
  cases m <;> rfl

/-- The event of a micro-operation (R64 to R68). -/
def eventOf (v : Level) : MicroOp → Event
  | .setClockLine l => .SCL l
  | .setDataLine l => .SDA l
  | .setDataDirection d => .DIR d
  | .readDataLine => .RD v
  | .delay name => .DLY name

@[simp] theorem microOp_tr (v : Level) (m : MicroOp) (s : State) :
    (microOp v m s).tr = s.tr ++ [eventOf v m] := by
  cases m <;> rfl

/-- A micro-operation writes the pins, the trace and `UPC`, and nothing else. -/
theorem microOp_eq (v : Level) (m : MicroOp) (s : State) :
    microOp v m s =
      { s with
        sclOut := (s.pins.after m).scl, sdaOut := (s.pins.after m).sda, sdaDir := (s.pins.after m).dir,
        tr := s.tr ++ [eventOf v m], upc := s.upc + 1 } := by
  cases m <;> rfl

/-! ## The attached writes -/

/-- An attached write touches `SH`, `RXD`, `RXV`, `ACKF`, `RES`, `OST` and nothing else. -/
theorem applyEffect_eq (v : Level) (s : State) (e : Effect) :
    applyEffect v s e =
      { s with
        sh := (applyEffect v s e).sh, rxd := (applyEffect v s e).rxd, rxv := (applyEffect v s e).rxv,
        ackf := (applyEffect v s e).ackf, res := (applyEffect v s e).res, ost := (applyEffect v s e).ost } := by
  cases e with
  | sampleAck c =>
    cases c with
    | none => rfl
    | some c => cases v <;> rfl
  | _ => rfl

theorem applyEffects_eq (v : Level) (es : List Effect) (s : State) :
    es.foldl (applyEffect v) s =
      { s with
        sh := (es.foldl (applyEffect v) s).sh, rxd := (es.foldl (applyEffect v) s).rxd,
        rxv := (es.foldl (applyEffect v) s).rxv, ackf := (es.foldl (applyEffect v) s).ackf,
        res := (es.foldl (applyEffect v) s).res, ost := (es.foldl (applyEffect v) s).ost } := by
  induction es generalizing s with
  | nil => rfl
  | cons e es ih =>
    rw [List.foldl_cons, ih (applyEffect v s e), applyEffect_eq v s e]

/-- The orchestrator state after the attached writes (R23). -/
theorem applyEffects_ost (v : Level) (es : List Effect) (s : State) :
    (es.foldl (applyEffect v) s).ost =
      es.foldl orchStep s.ost := by
  induction es generalizing s with
  | nil => rfl
  | cons e es ih =>
    rw [List.foldl_cons, List.foldl_cons, ih]
    cases e with
    | sampleAck c => cases c <;> cases v <;> rfl
    | _ => rfl

/-! ## One step of a routine -/

/-- The state a routine's micro-operation `m` makes of `s`, before completion. -/
def stepped (m : MicroStep) (s : State) : State :=
  m.effects.foldl (applyEffect (sdaIn s)) (microOp (sdaIn s) m.op s)

theorem performStep_next {m : MicroStep} {s t : State} :
    performStep m s = .next t ↔ ¬(m.op = .readDataLine ∧ s.sdaDir = .OUT) ∧ t = stepped m s := by
  unfold performStep stepped
  split
  · next h => simp [h]
  · next h =>
    simp only [h, not_false_eq_true, true_and]
    constructor
    · intro e; injection e with e; exact e.symm
    · rintro rfl; rfl

theorem performStep_ok {m : MicroStep} {s : State} (h : ¬(m.op = .readDataLine ∧ s.sdaDir = .OUT)) :
    performStep m s = .next (stepped m s) := performStep_next.mpr ⟨h, rfl⟩

/-- The inversion lemma of `performAt`: a next state is the one micro-operation number `UPC` makes, completed if it is
the routine's last. -/
theorem performAt_next {r : Routine} {s t : State} :
    performAt r s = .next t ↔
      ∃ m, r[s.upc]? = some m ∧ ¬(m.op = .readDataLine ∧ s.sdaDir = .OUT) ∧
        t = if s.upc + 1 = r.length then complete (stepped m s) else stepped m s := by
  unfold performAt
  cases hm : r[s.upc]? with
  | none => simp
  | some m =>
    by_cases hr : m.op = .readDataLine ∧ s.sdaDir = .OUT
    · have : performStep m s = .refused .readWhileOutput := by simp [performStep, hr]
      simp [this, hr]
    · simp only [performStep_ok hr, Option.some.injEq, exists_eq_left', hr, not_false_eq_true, true_and]
      constructor
      · intro h; injection h with h; exact h.symm
      · rintro rfl; rfl

theorem performAt_none {r : Routine} {s : State} (h : r.length ≤ s.upc) :
    performAt r s = .fault .noMicroOperation := by
  unfold performAt
  rw [List.getElem?_eq_none h]

@[simp] theorem stepped_upc (m : MicroStep) (s : State) : (stepped m s).upc = s.upc + 1 := by
  unfold stepped; rw [applyEffects_eq]; simp

@[simp] theorem stepped_tr (m : MicroStep) (s : State) : (stepped m s).tr = s.tr ++ [eventOf (sdaIn s) m.op] := by
  unfold stepped; rw [applyEffects_eq]; simp

@[simp] theorem stepped_pins (m : MicroStep) (s : State) : (stepped m s).pins = s.pins.after m.op := by
  unfold stepped; rw [applyEffects_eq]; exact microOp_pins _ _ _

theorem stepped_ost (m : MicroStep) (s : State) :
    (stepped m s).ost = m.effects.foldl orchStep s.ost := by
  unfold stepped; rw [applyEffects_ost]; congr 1; cases m.op <;> rfl

/-- A routine's step leaves the command, the flags of the host port, the host, the environment and the schedule as
they are. -/
theorem stepped_frame (m : MicroStep) (s : State) :
    (stepped m s).cmdr = s.cmdr ∧ (stepped m s).busy = s.busy ∧ (stepped m s).done = s.done ∧
    (stepped m s).rej = s.rej ∧ (stepped m s).rst = s.rst ∧ (stepped m s).envScl = s.envScl ∧
    (stepped m s).envSda = s.envSda ∧ (stepped m s).agenda = s.agenda ∧ (stepped m s).reads = s.reads ∧
    (stepped m s).wave = s.wave ∧ (stepped m s).draws = s.draws := by
  unfold stepped; rw [applyEffects_eq]; cases m.op <;> simp [microOp]

/-! ## The host register port -/

theorem accept_legal {w : Word} (h : legalOpcode (fieldOpc w) = true) (s : State) :
    accept w s = { latchCommand w s with busy := true } := by
  simp [accept, h]

theorem accept_illegal {w : Word} (h : legalOpcode (fieldOpc w) = false) (s : State) :
    accept w s = completeIllegal (latchCommand w s) := by
  simp [accept, h]

/-- The inversion lemma of a host write (R40, R41). -/
theorem hostWrite_cases (n : Nat) (w : Word) (s : State) :
    (0 < n ∧ hostWrite n w s = s) ∨ (n = 0 ∧ s.busy = true ∧ hostWrite n w s = rejectBusy s) ∨
    (n = 0 ∧ s.busy = false ∧ hostWrite n w s = accept w s) := by
  match n with
  | 0 => cases hb : s.busy <;> simp [hostWrite, hb]
  | n + 1 => exact .inl ⟨Nat.succ_pos n, rfl⟩

end Sys2Proof.Machine
end

