-- ==== Sys2Proof/Laws/PerInstr.lean ====
section
/-! SUPPORT. Statements about every command as syntax, one lemma per constructor: its word has a legal opcode, and
decoding its word gives it back. -/

namespace Sys2Proof.Laws.OpcodeLegal

/-- R55: the assembler writes one of the seven opcodes. -/
def Statement (i : Instr) : Prop := legalOpcode (fieldOpc (encode i)) = true

theorem start : Statement .start := by simp [Statement, encode]; decide
theorem stop : Statement .stop := by simp [Statement, encode]; decide
theorem txbyte (x : Byte) : Statement (.txbyte x) := by simp [Statement, encode]; decide
theorem rxbyte (p : AckFlag) : Statement (.rxbyte p) := by simp [Statement, encode]; decide
theorem addr (sa : Byte) (dir : Access) : Statement (.addr sa dir) := by simp [Statement, encode]; decide
theorem wrreg (sa ra d : Byte) : Statement (.wrreg sa ra d) := by simp [Statement, encode]; decide
theorem rdreg (sa ra : Byte) : Statement (.rdreg sa ra) := by simp [Statement, encode]; decide

end Sys2Proof.Laws.OpcodeLegal

namespace Sys2Proof.Laws.RoundTrip

/-- R54, R59: decoding the word of a command gives the command back. -/
def Statement (i : Instr) : Prop := decode (encode i) = .ok i

theorem start : Statement .start := by simp [Statement, encode, decode]
theorem stop : Statement .stop := by simp [Statement, encode, decode]
theorem txbyte (x : Byte) : Statement (.txbyte x) := by simp [Statement, encode, decode]
theorem rxbyte (p : AckFlag) : Statement (.rxbyte p) := by cases p <;> simp [Statement, encode, decode] <;> decide
theorem addr (sa : Byte) (dir : Access) : Statement (.addr sa dir) := by
  cases dir <;> simp [Statement, encode, decode] <;> decide
theorem wrreg (sa ra d : Byte) : Statement (.wrreg sa ra d) := by simp [Statement, encode, decode]
theorem rdreg (sa ra : Byte) : Statement (.rdreg sa ra) := by simp [Statement, encode, decode]

end Sys2Proof.Laws.RoundTrip
end

