-- ==== Sys2Proof/Laws/Routine.lean ====
section
/-! SUPPORT. What the flattened routines of the commands look like, whatever their operands: lengths, where reads and
attached writes stand, how the paths of one command agree, the pins they leave (spec 41_bit_byte_transfer.md R78,
42_bus_sequencer.md R83, 95_test_vectors.md section 2.1). Each fact is proved routine by routine and joined along
the append that makes the longer routine. -/

namespace Sys2Proof.Machine

/-! ## Lengths -/

@[simp] theorem withLast_length (e : Effect) (r : Routine) : (withLast e r).length = r.length := by
  induction r with
  | nil => rfl
  | cons m r ih => cases r with
    | nil => rfl
    | cons m' r => simpa [withLast] using ih

@[simp] theorem withFirst_length (e : Effect) (r : Routine) : (withFirst e r).length = r.length := by
  cases r <;> rfl

@[simp] theorem startRoutine_length : startRoutine.length = 8 := rfl
@[simp] theorem stopRoutine_length : stopRoutine.length = 8 := rfl
@[simp] theorem transmitByte_length (c : Option ResultCode) (x : Byte) : (transmitByte c x).length = 57 := rfl
@[simp] theorem receiveByte_length (p : AckFlag) : (receiveByte p).length = 73 := rfl
@[simp] theorem addressByte_length (c : Option ResultCode) (sa : Byte) (dir : Access) :
    (addressByte c sa dir).length = 57 := rfl
@[simp] theorem closing_length : closing.length = 8 := rfl
@[simp] theorem opening_length (sa : Byte) : (opening sa).length = 65 := by simp [opening]
@[simp] theorem openingToRegister_length (sa ra : Byte) : (openingToRegister sa ra).length = 122 := by
  simp [openingToRegister]
@[simp] theorem openingToReaddress_length (sa ra : Byte) : (openingToReaddress sa ra).length = 187 := by
  simp [openingToReaddress]

/-- The number of micro-operations of a command on the path `RES` selects. -/
def lengthOf : Instr → ResultCode → Nat
  | .start, _ => 8
  | .stop, _ => 8
  | .txbyte _, _ => 57
  | .rxbyte _, _ => 73
  | .addr _ _, _ => 57
  | .wrreg _ _ _, .NACK_ADDRESS => 73
  | .wrreg _ _ _, .NACK_REGISTER => 130
  | .wrreg _ _ _, _ => 187
  | .rdreg _ _, .NACK_ADDRESS => 73
  | .rdreg _ _, .NACK_REGISTER => 130
  | .rdreg _ _, .NACK_READDRESS => 195
  | .rdreg _ _, _ => 268

theorem routineOf_length (i : Instr) (res : ResultCode) : (routineOf i res).length = lengthOf i res := by
  cases i <;> cases res <;> simp [routineOf, wrregRoutine, rdregRoutine, lengthOf]

theorem lengthOf_le (i : Instr) (res : ResultCode) : lengthOf i res ≤ 268 := by
  cases i <;> cases res <;> simp [lengthOf]

theorem lengthOf_pos (i : Instr) (res : ResultCode) : 0 < lengthOf i res := by
  cases i <;> cases res <;> simp [lengthOf]

/-! ## The micro-operations of a routine, without the attached writes -/

/-- The micro-operations of a routine. -/
def ops (r : Routine) : List MicroOp := r.map (·.op)

@[simp] theorem ops_append (r r' : Routine) : ops (r ++ r') = ops r ++ ops r' := List.map_append

@[simp] theorem ops_withLast (e : Effect) (r : Routine) : ops (withLast e r) = ops r := by
  induction r with
  | nil => rfl
  | cons m r ih => cases r with
    | nil => rfl
    | cons m' r =>
      show m.op :: ops (withLast e (m' :: r)) = _
      rw [ih]; rfl

@[simp] theorem ops_withFirst (e : Effect) (r : Routine) : ops (withFirst e r) = ops r := by
  cases r <;> rfl

@[simp] theorem ops_getElem? (r : Routine) (k : Nat) : (ops r)[k]? = (r[k]?).map (·.op) := by
  simp [ops]

theorem pinsAfter_eq_ops (r : Routine) (p : Pins) : pinsAfter r p = (ops r).foldl Pins.after p := by
  simp [pinsAfter, ops, List.foldl_map]

@[simp] theorem pinsAfter_nil (p : Pins) : pinsAfter [] p = p := rfl

@[simp] theorem pinsAfter_cons (m : MicroStep) (r : Routine) (p : Pins) :
    pinsAfter (m :: r) p = pinsAfter r (p.after m.op) := rfl

@[simp] theorem pinsAfter_append (r r' : Routine) (p : Pins) :
    pinsAfter (r ++ r') p = pinsAfter r' (pinsAfter r p) := by
  simp [pinsAfter, List.foldl_append]

@[simp] theorem pinsAfter_withLast (e : Effect) (r : Routine) (p : Pins) :
    pinsAfter (withLast e r) p = pinsAfter r p := by
  simp [pinsAfter_eq_ops]

theorem orchAfter_append (r r' : Routine) (o : OrchState) : orchAfter (r ++ r') o = orchAfter r' (orchAfter r o) := by
  simp [orchAfter, List.foldl_append]

theorem take_succ_of_get {r : Routine} {k : Nat} {m : MicroStep} (h : r[k]? = some m) :
    r.take (k + 1) = r.take k ++ [m] := by
  rw [List.take_add_one, h]; rfl

theorem pinsAfter_take_succ {r : Routine} {k : Nat} {m : MicroStep} (h : r[k]? = some m) (p : Pins) :
    pinsAfter (r.take (k + 1)) p = (pinsAfter (r.take k) p).after m.op := by
  rw [take_succ_of_get h, pinsAfter_append]; rfl

theorem orchAfter_take_succ {r : Routine} {k : Nat} {m : MicroStep} (h : r[k]? = some m) (o : OrchState) :
    orchAfter (r.take (k + 1)) o = m.effects.foldl orchStep (orchAfter (r.take k) o) := by
  rw [take_succ_of_get h, orchAfter_append]; rfl

/-! ## The pins a routine leaves (R78, R83) -/

theorem startRoutine_pins (p : Pins) : pinsAfter startRoutine p = ⟨.L, .L, .OUT⟩ := rfl
theorem stopRoutine_pins (p : Pins) : pinsAfter stopRoutine p = ⟨.H, .H, .OUT⟩ := rfl
theorem closing_pins (p : Pins) : pinsAfter closing p = ⟨.H, .H, .OUT⟩ := rfl

theorem transmitByte_pins (c : Option ResultCode) (x : Byte) (p : Pins) :
    pinsAfter (transmitByte c x) p = ⟨.L, lvl (x.getLsbD 0), .IN⟩ := rfl

theorem receiveByte_pins (p : AckFlag) (q : Pins) : pinsAfter (receiveByte p) q = ⟨.L, lvlOfPolicy p, .IN⟩ := rfl

theorem routineOf_ends_safe (i : Instr) (res : ResultCode) (p : Pins) : (pinsAfter (routineOf i res) p).idleSafe := by
  cases i with
  | start => exact .inl rfl
  | stop => exact .inr fun h => Level.noConfusion h.2
  | txbyte x => exact .inl (by simp [routineOf, transmitByte_pins])
  | rxbyte p => exact .inl (by simp [routineOf, receiveByte_pins])
  | addr sa dir => exact .inl (by simp [routineOf, addressByte, transmitByte_pins])
  | wrreg sa ra d =>
    cases res <;> simp [routineOf, wrregRoutine, closing_pins, Pins.idleSafe]
  | rdreg sa ra =>
    cases res <;> simp [routineOf, rdregRoutine, closing_pins, Pins.idleSafe]

/-! ## Every read has the direction IN (R37 (a), R121) -/

/-- The direction after some micro-operations. -/
def dirAfter (d : Dir) (l : List MicroOp) : Dir :=
  l.foldl (fun q m => match m with | .setDataDirection d' => d' | _ => q) d

/-- Every read comes with the direction IN, the direction being `d` before the first micro-operation. -/
def readsIn : Dir → List MicroOp → Bool
  | _, [] => true
  | d, m :: l => decide (m = .readDataLine → d = .IN) && readsIn (dirAfter d [m]) l

theorem dirAfter_append (d : Dir) (l l' : List MicroOp) : dirAfter d (l ++ l') = dirAfter (dirAfter d l) l' := by
  simp [dirAfter, List.foldl_append]

theorem readsIn_append (d : Dir) (l l' : List MicroOp) :
    readsIn d (l ++ l') = (readsIn d l && readsIn (dirAfter d l) l') := by
  induction l generalizing d with
  | nil => simp [readsIn, dirAfter]
  | cons m l ih =>
    rw [List.cons_append, readsIn, readsIn, ih, Bool.and_assoc]
    rfl

theorem pins_after_dir (p : Pins) (m : MicroOp) : (p.after m).dir = dirAfter p.dir [m] := by
  cases m <;> rfl

theorem readsIn_spec {r : Routine} {p : Pins} (h : readsIn p.dir (ops r) = true) {k : Nat} {m : MicroStep}
    (hk : r[k]? = some m) (hm : m.op = .readDataLine) : (pinsAfter (r.take k) p).dir = .IN := by
  induction r generalizing p k with
  | nil => simp at hk
  | cons a r ih =>
    rw [ops, List.map_cons, readsIn, Bool.and_eq_true] at h
    cases k with
    | zero =>
      simp only [List.getElem?_cons_zero, Option.some.injEq] at hk
      subst hk
      exact of_decide_eq_true h.1 hm
    | succ k =>
      rw [List.take_succ_cons, pinsAfter_cons]
      exact ih (by rw [pins_after_dir]; exact h.2) (by simpa using hk)

theorem startRoutine_reads (d : Dir) : readsIn d (ops startRoutine) = true ∧ dirAfter d (ops startRoutine) = .OUT :=
  ⟨rfl, rfl⟩

theorem stopRoutine_reads (d : Dir) : readsIn d (ops stopRoutine) = true ∧ dirAfter d (ops stopRoutine) = .OUT :=
  ⟨rfl, rfl⟩

theorem transmitByte_reads (d : Dir) (c : Option ResultCode) (x : Byte) :
    readsIn d (ops (transmitByte c x)) = true ∧ dirAfter d (ops (transmitByte c x)) = .IN :=
  ⟨rfl, rfl⟩

theorem receiveByte_reads (d : Dir) (p : AckFlag) :
    readsIn d (ops (receiveByte p)) = true ∧ dirAfter d (ops (receiveByte p)) = .IN :=
  ⟨rfl, rfl⟩

theorem routineOf_readsIn (i : Instr) (res : ResultCode) (d : Dir) : readsIn d (ops (routineOf i res)) = true := by
  cases i with
  | start => exact (startRoutine_reads d).1
  | stop => exact (stopRoutine_reads d).1
  | txbyte x => exact (transmitByte_reads d _ x).1
  | rxbyte p => exact (receiveByte_reads d p).1
  | addr sa dir => exact (transmitByte_reads d _ _).1
  | wrreg sa ra x =>
    cases res <;>
      simp [routineOf, wrregRoutine, openingToRegister, opening, closing, addressByte, readsIn_append,
        startRoutine_reads, stopRoutine_reads, transmitByte_reads]
  | rdreg sa ra =>
    cases res <;>
      simp [routineOf, rdregRoutine, openingToReaddress, openingToRegister, opening, closing, addressByte,
        readsIn_append, startRoutine_reads, stopRoutine_reads, transmitByte_reads, receiveByte_reads]

theorem read_dir_in {i : Instr} {res : ResultCode} {p : Pins} {k : Nat} {m : MicroStep}
    (hk : (routineOf i res)[k]? = some m) (hm : m.op = .readDataLine) :
    (pinsAfter ((routineOf i res).take k) p).dir = .IN :=
  readsIn_spec (routineOf_readsIn i res p.dir) hk hm

/-! ## Where the attached writes stand -/

/-- The attached writes of a routine with their offsets, counted from `n`. -/
def effectsFrom : Nat → Routine → List (Nat × Effect)
  | _, [] => []
  | n, m :: r => m.effects.map (fun e => (n, e)) ++ effectsFrom (n + 1) r

theorem effectsFrom_append (n : Nat) (r r' : Routine) :
    effectsFrom n (r ++ r') = effectsFrom n r ++ effectsFrom (n + r.length) r' := by
  induction r generalizing n with
  | nil => simp [effectsFrom]
  | cons m r ih => simp [effectsFrom, ih, Nat.add_comm, Nat.add_left_comm]

theorem effectsFrom_withLast (n : Nat) (e : Effect) {r : Routine} (h : 0 < r.length) :
    effectsFrom n (withLast e r) = effectsFrom n r ++ [(n + r.length - 1, e)] := by
  induction r generalizing n with
  | nil => simp at h
  | cons m r ih =>
    cases r with
    | nil => simp [withLast, effectsFrom]
    | cons m' r =>
      have := ih (n := n + 1) (by simp)
      rw [withLast, effectsFrom, this, show effectsFrom n (m :: m' :: r) =
        m.effects.map (fun e => (n, e)) ++ effectsFrom (n + 1) (m' :: r) from rfl, List.append_assoc]
      · simp [Nat.add_comm, Nat.add_left_comm]
      · simp

theorem mem_effectsFrom {r : Routine} {n k : Nat} {m : MicroStep} {e : Effect} (hk : r[k]? = some m)
    (he : e ∈ m.effects) : (n + k, e) ∈ effectsFrom n r := by
  induction r generalizing n k with
  | nil => simp at hk
  | cons a r ih =>
    rw [effectsFrom, List.mem_append]
    cases k with
    | zero =>
      simp only [List.getElem?_cons_zero, Option.some.injEq] at hk
      subst hk
      exact .inl (List.mem_map.mpr ⟨e, he, rfl⟩)
    | succ k =>
      right
      have := ih (n := n + 1) (k := k) (by simpa using hk)
      rwa [show n + 1 + k = n + (k + 1) by omega] at this

theorem startRoutine_effects (n : Nat) : effectsFrom n startRoutine = [] := rfl
theorem stopRoutine_effects (n : Nat) : effectsFrom n stopRoutine = [] := rfl

theorem effectsFrom_bits (n : Nat) (f : Nat → Bool) (l : List Nat) :
    effectsFrom n (l.flatMap fun i => transmitBit (f i)) = [] := by
  induction l generalizing n with
  | nil => rfl
  | cons a l ih => rw [List.flatMap_cons, effectsFrom_append, ih]; rfl

theorem transmitByte_effects (n : Nat) (c : Option ResultCode) (x : Byte) :
    effectsFrom n (transmitByte c x) = [(n + 53, .sampleAck c)] := by
  rw [transmitByte, effectsFrom_append, effectsFrom_bits]
  rfl

theorem effectsFrom_withFirst (n : Nat) (e : Effect) (m : MicroStep) (r : Routine) :
    effectsFrom n (withFirst e (m :: r)) =
      m.effects.map (fun e => (n, e)) ++ (n, e) :: effectsFrom (n + 1) r := by
  simp [withFirst, effectsFrom]

theorem receiveByte_effects (n : Nat) (p : AckFlag) :
    effectsFrom n (receiveByte p) =
      [(n, .clearShift), (n + 5, .shiftSample), (n + 13, .shiftSample), (n + 21, .shiftSample),
       (n + 29, .shiftSample), (n + 37, .shiftSample), (n + 45, .shiftSample), (n + 53, .shiftSample),
       (n + 61, .shiftSample), (n + 72, .presentByte)] := by
  simp [receiveByte, msbFirst, receiveBit, driveAckPhase, withFirst, effectsFrom, Nat.add_assoc]

/-- The attached writes of a command on the path `RES` selects (R75, R77, R85, R86). -/
def effectsOf : Instr → ResultCode → List (Nat × Effect)
  | .start, _ => []
  | .stop, _ => []
  | .txbyte _, _ => [(53, .sampleAck none)]
  | .addr _ _, _ => [(53, .sampleAck none)]
  | .rxbyte p, _ => effectsFrom 0 (receiveByte p)
  | .wrreg _ _ _, .NACK_ADDRESS =>
    [(7, .enter .STARTED), (61, .sampleAck (some .NACK_ADDRESS)), (72, .enter .STOPPED)]
  | .wrreg _ _ _, .NACK_REGISTER =>
    [(7, .enter .STARTED), (61, .sampleAck (some .NACK_ADDRESS)), (64, .enter .ADDRESSED),
     (118, .sampleAck (some .NACK_REGISTER)), (129, .enter .STOPPED)]
  | .wrreg _ _ _, _ =>
    [(7, .enter .STARTED), (61, .sampleAck (some .NACK_ADDRESS)), (64, .enter .ADDRESSED),
     (118, .sampleAck (some .NACK_REGISTER)), (175, .sampleAck (some .NACK_DATA)), (178, .enter .DATA_SENT),
     (186, .enter .STOPPED)]
  | .rdreg _ _, .NACK_ADDRESS =>
    [(7, .enter .STARTED), (61, .sampleAck (some .NACK_ADDRESS)), (72, .enter .STOPPED)]
  | .rdreg _ _, .NACK_REGISTER =>
    [(7, .enter .STARTED), (61, .sampleAck (some .NACK_ADDRESS)), (64, .enter .ADDRESSED),
     (118, .sampleAck (some .NACK_REGISTER)), (129, .enter .STOPPED)]
  | .rdreg _ _, .NACK_READDRESS =>
    [(7, .enter .STARTED), (61, .sampleAck (some .NACK_ADDRESS)), (64, .enter .ADDRESSED),
     (118, .sampleAck (some .NACK_REGISTER)), (129, .enter .RESTARTED), (183, .sampleAck (some .NACK_READDRESS)),
     (194, .enter .STOPPED)]
  | .rdreg _ _, _ =>
    [(7, .enter .STARTED), (61, .sampleAck (some .NACK_ADDRESS)), (64, .enter .ADDRESSED),
     (118, .sampleAck (some .NACK_REGISTER)), (129, .enter .RESTARTED), (183, .sampleAck (some .NACK_READDRESS)),
     (186, .enter .READDRESSED), (187, .clearShift), (192, .shiftSample), (200, .shiftSample), (208, .shiftSample),
     (216, .shiftSample), (224, .shiftSample), (232, .shiftSample), (240, .shiftSample), (248, .shiftSample),
     (259, .presentByte), (259, .enter .DATA_RECEIVED), (267, .enter .STOPPED)]

/-- The attached writes of the stages whose last micro-operation enters an orchestrator state. -/
theorem startRoutine_effects_last (n : Nat) (e : Effect) : effectsFrom n (withLast e startRoutine) = [(n + 7, e)] := rfl
theorem stopRoutine_effects_last (n : Nat) (e : Effect) : effectsFrom n (withLast e stopRoutine) = [(n + 7, e)] := rfl

theorem transmitByte_effects_last (n : Nat) (c : Option ResultCode) (x : Byte) (e : Effect) :
    effectsFrom n (withLast e (transmitByte c x)) = [(n + 53, .sampleAck c), (n + 56, e)] := by
  rw [effectsFrom_withLast n e (by simp), transmitByte_effects]; rfl

theorem receiveByte_effects_last (n : Nat) (p : AckFlag) (e : Effect) :
    effectsFrom n (withLast e (receiveByte p)) = effectsFrom n (receiveByte p) ++ [(n + 72, e)] := by
  rw [effectsFrom_withLast n e (by simp)]; rfl

theorem opening_effects (sa : Byte) :
    effectsFrom 0 (opening sa) = [(7, .enter .STARTED), (61, .sampleAck (some .NACK_ADDRESS))] := by
  simp [opening, addressByte, effectsFrom_append, startRoutine_effects_last, transmitByte_effects]

theorem openingToRegister_effects (sa ra : Byte) :
    effectsFrom 0 (openingToRegister sa ra) =
      [(7, .enter .STARTED), (61, .sampleAck (some .NACK_ADDRESS)), (64, .enter .ADDRESSED),
       (118, .sampleAck (some .NACK_REGISTER))] := by
  simp [openingToRegister, effectsFrom_append, effectsFrom_withLast, opening_effects, transmitByte_effects]

theorem openingToReaddress_effects (sa ra : Byte) :
    effectsFrom 0 (openingToReaddress sa ra) =
      [(7, .enter .STARTED), (61, .sampleAck (some .NACK_ADDRESS)), (64, .enter .ADDRESSED),
       (118, .sampleAck (some .NACK_REGISTER)), (129, .enter .RESTARTED),
       (183, .sampleAck (some .NACK_READDRESS))] := by
  simp [openingToReaddress, addressByte, effectsFrom_append, openingToRegister_effects, startRoutine_effects_last,
    transmitByte_effects]

theorem routineOf_effects (i : Instr) (res : ResultCode) : effectsFrom 0 (routineOf i res) = effectsOf i res := by
  cases i with
  | start => rfl
  | stop => rfl
  | txbyte x => exact transmitByte_effects 0 _ x
  | rxbyte p => rfl
  | addr sa dir => exact transmitByte_effects 0 _ _
  | wrreg sa ra d =>
    cases res <;>
      simp [routineOf, wrregRoutine, closing, effectsFrom_append, opening_effects, openingToRegister_effects,
        stopRoutine_effects_last, transmitByte_effects_last, effectsOf]
  | rdreg sa ra =>
    cases res <;>
      simp [routineOf, rdregRoutine, closing, effectsFrom_append, effectsFrom_withLast, opening_effects,
        openingToRegister_effects, openingToReaddress_effects, stopRoutine_effects_last, receiveByte_effects,
        receiveByte_effects_last, effectsOf]

/-- The one lemma about attached writes: a write of the micro-operation at offset `k` is in the command's list. -/
theorem effect_listed {i : Instr} {res : ResultCode} {k : Nat} {m : MicroStep} {e : Effect}
    (hk : (routineOf i res)[k]? = some m) (he : e ∈ m.effects) : (k, e) ∈ effectsOf i res := by
  have := mem_effectsFrom (n := 0) hk he
  rwa [routineOf_effects, Nat.zero_add] at this

/-! ## Sums of delays (R124) -/

@[simp] theorem delayTotal_append (cfg : BusConfiguration) (r r' : Routine) :
    delayTotal cfg (r ++ r') = delayTotal cfg r + delayTotal cfg r' := by
  simp [delayTotal]

theorem delayTotal_eq_ops (cfg : BusConfiguration) (r : Routine) :
    delayTotal cfg r = ((ops r).map fun m => match m with | .delay name => cfg.count name | _ => 0).sum := by
  simp only [delayTotal, ops, List.map_map]
  rfl

@[simp] theorem delayTotal_withLast (cfg : BusConfiguration) (e : Effect) (r : Routine) :
    delayTotal cfg (withLast e r) = delayTotal cfg r := by
  rw [delayTotal_eq_ops, ops_withLast, ← delayTotal_eq_ops]

@[simp] theorem delayTotal_withFirst (cfg : BusConfiguration) (e : Effect) (r : Routine) :
    delayTotal cfg (withFirst e r) = delayTotal cfg r := by
  rw [delayTotal_eq_ops, ops_withFirst, ← delayTotal_eq_ops]

/-! ## How the paths of one command agree (log 5) -/

theorem withLast_take {e : Effect} {r : Routine} {k : Nat} (h : k < r.length) : (withLast e r).take k = r.take k := by
  induction r generalizing k with
  | nil => rfl
  | cons m r ih =>
    cases r with
    | nil => simp at h; subst h; rfl
    | cons m' r =>
      cases k with
      | zero => rfl
      | succ k => simpa [withLast] using ih (by simpa using h)

/-- The samples of a command that raise a code, with their offsets. -/
def raisingSamples : Instr → List (Nat × ResultCode)
  | .wrreg _ _ _ => [(61, .NACK_ADDRESS), (118, .NACK_REGISTER), (175, .NACK_DATA)]
  | .rdreg _ _ => [(61, .NACK_ADDRESS), (118, .NACK_REGISTER), (183, .NACK_READDRESS)]
  | _ => []

theorem raising_sample {i : Instr} {res c : ResultCode} {k : Nat} (h : (k, Effect.sampleAck (some c)) ∈ effectsOf i res) :
    (k, c) ∈ raisingSamples i ∧ k < lengthOf i res := by
  cases i <;> cases res <;> simp [effectsOf, receiveByte_effects] at h <;> simp [raisingSamples, lengthOf] <;>
    grind

/-- The path a sample's code selects agrees with the path on which it is sampled, up to and with the sample, and goes on
after it. -/
theorem paths_agree {i : Instr} {res c : ResultCode} {k : Nat} (h : (k, Effect.sampleAck (some c)) ∈ effectsOf i res) :
    (routineOf i c).take (k + 1) = (routineOf i res).take (k + 1) ∧ k + 1 < (routineOf i c).length := by
  rw [routineOf_length]
  obtain ⟨hc, hk⟩ := raising_sample h
  cases i <;> simp only [raisingSamples, List.not_mem_nil, List.mem_cons, Prod.mk.injEq, or_false] at hc
  all_goals
    rcases hc with ⟨rfl, rfl⟩ | ⟨rfl, rfl⟩ | ⟨rfl, rfl⟩ <;> cases res <;>
      simp [lengthOf] at hk <;>
      simp [routineOf, wrregRoutine, rdregRoutine, openingToReaddress, openingToRegister, lengthOf, List.take_append,
        withLast_take]

end Sys2Proof.Machine
end

