-- ==== Sys2Proof/Laws/Step.lean ====
section
/-! SUPPORT. What one step of the machine can do, agent by agent. -/

namespace Sys2Proof.Machine

theorem step_scheduled {s : State} {t : Turn} {rest : List Turn} (h : s.agenda = t :: rest) :
    step s = turn t { s with agenda := rest } := by
  simp [step, h]

theorem step_unscheduled {s : State} (h : s.agenda = []) : step s = sequencerTurn (freeEnvironment s) := by
  simp [step, h]

theorem sequencerTurn_idle {s : State} (h : s.busy = false) : sequencerTurn s = .next s := by
  simp [sequencerTurn, h]

theorem sequencerTurn_inReset {s : State} (h : s.rst = true) : sequencerTurn s = .next s := by
  simp [sequencerTurn, h]

/-- The inversion lemma of the sequencer's turn. -/
theorem sequencerTurn_next {s t : State} (h : sequencerTurn s = .next t) :
    ((s.rst = true ∨ s.busy = false) ∧ t = s) ∨
    (s.rst = false ∧ s.busy = true ∧ ∃ i u, decode s.cmdr = .ok i ∧ exec i s = .next u ∧ t = observe u) := by
  unfold sequencerTurn at h
  cases hr : s.rst with
  | true => simp [hr] at h; exact .inl ⟨.inl rfl, h.symm⟩
  | false =>
    cases hb : s.busy with
    | false => simp [hr, hb] at h; exact .inl ⟨.inr rfl, h.symm⟩
    | true =>
      cases hd : decode s.cmdr with
      | error e => simp [hr, hb, hd] at h
      | ok i =>
        cases he : exec i s with
        | next u => simp [hr, hb, hd, he] at h; exact .inr ⟨rfl, rfl, i, u, rfl, he, h.symm⟩
        | fault f => simp [hr, hb, hd, he] at h
        | refused r => simp [hr, hb, hd, he] at h

theorem sequencerTurn_runs {s u : State} {i : Instr} (hr : s.rst = false) (hb : s.busy = true)
    (hd : decode s.cmdr = .ok i) (he : exec i s = .next u) : sequencerTurn s = .next (observe u) := by
  simp [sequencerTurn, hr, hb, hd, he]

theorem observe_eq (s : State) : observe s = { s with wave := (observe s).wave } := rfl

/-- The free environment changes the two contributions, the wave and the counter, and nothing else. -/
theorem freeEnvironment_frame (s : State) :
    freeEnvironment s =
      { s with
        envScl := Config.freeScl s.draws, envSda := Config.freeSda s.draws, draws := s.draws + 1,
        wave := (freeEnvironment s).wave } := by
  simp only [freeEnvironment, envSclTurn, envSdaTurn]
  rw [observe_eq, observe_eq { s with envSda := Config.freeSda s.draws }]

end Sys2Proof.Machine
end

