-- ==== Sys2Proof/Laws/Wires.lean ====
section
/-! SUPPORT. The observer of bus events as the wire states come in one by one (spec 40_pin_primitives.md R71): what one
more wire state adds, and what one look at the wires does. -/

namespace Sys2Proof.Machine

/-- A pair equal to its predecessor is no edge. -/
@[simp] theorem busEdge_self (w : WireState) (bits : List Bool) : busEdge w w bits = ([], bits) := by
  obtain ⟨c, d⟩ := w
  cases c <;> cases d <;> simp [busEdge]

theorem observer_from_concat (old last new : WireState) (bits : List Bool) (ws : List WireState)
    (h : (old :: ws).getLast? = some last) :
    busEventsFrom old bits (ws ++ [new]) =
      busEventsFrom old bits ws ++ (busEdge last new (bitGroupFrom old bits ws)).1 ∧
    bitGroupFrom old bits (ws ++ [new]) = (busEdge last new (bitGroupFrom old bits ws)).2 := by
  induction ws generalizing old bits with
  | nil =>
    obtain rfl : old = last := by simpa using h
    simp [busEventsFrom, bitGroupFrom]
  | cons w ws ih =>
    have := ih w (busEdge old w bits).2 (by rwa [List.getLast?_cons_cons] at h)
    simp [busEventsFrom, bitGroupFrom, this]

/-- One wire state more. -/
theorem observer_concat {ws : List WireState} {last : WireState} (h : ws.getLast? = some last) (new : WireState) :
    busEvents (ws ++ [new]) = busEvents ws ++ (busEdge last new (bitGroup ws)).1 ∧
    bitGroup (ws ++ [new]) = (busEdge last new (bitGroup ws)).2 := by
  cases ws with
  | nil => simp at h
  | cons w ws => exact observer_from_concat w last new [] ws h

/-- One look at the wires, from a record whose last pair is `old`. -/
theorem observe_adds {s : State} {old : WireState} (h : s.wave.getLast? = some old) :
    busEvents (observe s).wave = busEvents s.wave ++ (busEdge old (wires s) (bitGroup s.wave)).1 ∧
    bitGroup (observe s).wave = (busEdge old (wires s) (bitGroup s.wave)).2 ∧
    (observe s).wave.getLast? = some (wires (observe s)) := by
  show busEvents (if _ then _ else _) = _ ∧ bitGroup (if _ then _ else _) = _ ∧
    (if _ then _ else _ : List WireState).getLast? = some (wires s)
  split
  · next he =>
    obtain rfl : old = wires s := by rw [h] at he; exact Option.some.inj he
    simp [h]
  · obtain ⟨he, hb⟩ := observer_concat h (wires s)
    exact ⟨he, hb, by simp⟩

end Sys2Proof.Machine
end

