-- ==== Sys2Proof/Tests/Slice0.lean ====
section
/-! SUPPORT. Tests: ill-formed input refused, words of the spec decoded, one step of each command on a small state
(expected results from 95_test_vectors.md and the examples of the rules), and for every statement with hypotheses a
state and operands that meet them, clause by clause, at the ends of their ranges. -/

namespace Sys2Proof.Tests

open Sys2Proof.Machine Sys2Proof.Expected

/-! ## States to test on -/

/-- An idle block out of reset on a bus that nobody else holds. -/
def idle : State := { State.reset with envScl := .H, envSda := .H, wave := [(.H, .H)] }

/-- The block at micro-operation `k` of a command, with the data line an input. -/
def atOp (k : Nat) : State := { idle with busy := true, upc := k, sdaDir := .IN }

/-- The same with a code raised. -/
def atOpRes (k : Nat) (res : ResultCode) : State := { atOp k with res := res }

/-- The block in the middle of command `i` (its word `w`), as a run from the idle bus makes it. -/
def midway (w : Word) (i : Instr) (k : Nat) (res : ResultCode) : State :=
  { idle with
    cmdr := w, upc := k, busy := true, res := res,
    sclOut := (pinsAfter ((routineOf i res).take k) ⟨.H, .H, .OUT⟩).scl,
    sdaOut := (pinsAfter ((routineOf i res).take k) ⟨.H, .H, .OUT⟩).sda,
    sdaDir := (pinsAfter ((routineOf i res).take k) ⟨.H, .H, .OUT⟩).dir,
    ost := orchAfter ((routineOf i res).take k) .IDLE,
    wave := [(wireLevel (decide ((pinsAfter ((routineOf i res).take k) ⟨.H, .H, .OUT⟩).scl = .L)) .H,
      wireLevel (decide ((pinsAfter ((routineOf i res).take k) ⟨.H, .H, .OUT⟩).dir = .OUT ∧
        (pinsAfter ((routineOf i res).take k) ⟨.H, .H, .OUT⟩).sda = .L)) .H)] }

/-- `midway` meets the invariant wherever a code it holds was raised before. -/
theorem midway_inv {w : Word} {i : Instr} {k : Nat} {res : ResultCode} (hd : decode w = .ok i) (hk : k < lengthOf i res)
    (hc : res = .OK ∨ ∃ m ∈ (routineOf i res).take k, Effect.sampleAck (some res) ∈ m.effects) :
    Inv (midway w i k res) where
  running _ := ⟨i, hd, by rw [routineOf_length]; exact hk, ⟨⟨.H, .H, .OUT⟩, .inr (by simp), rfl⟩, rfl, hc⟩
  not_both _ := rfl
  idle_pins h := nomatch h
  idle_orch h := nomatch h
  no_byte _ := rfl
  nack_flag _ _ := rfl
  upc_bound := Nat.le_of_lt (Nat.lt_of_lt_of_le hk (lengthOf_le i res))
  fresh h := nomatch h
  in_reset h := nomatch h
  observed := rfl

theorem idle_inv : Inv idle where
  running h := nomatch h
  not_both h := nomatch h
  idle_pins _ := .inr (by simp [State.pins, idle, State.reset])
  idle_orch _ := rfl
  no_byte _ := rfl
  nack_flag h := absurd rfl h
  upc_bound := by decide
  fresh _ _ := by simp [AtReset, idle, State.reset]
  in_reset h := nomatch h
  observed := rfl

/-- What a test looks at in the state after one step of a command. -/
def after {α : Type} (f : State → α) (i : Instr) (s : State) : Option α := (nextState? (exec i s)).map f

/-! ## Ill-formed input is refused (R55, R56, R59) -/

theorem test_opcode_zero_refused : legalOpcode 0x00#8 = false := by decide
theorem test_opcode_eight_refused : legalOpcode 0x08#8 = false := by decide
theorem test_opcode_last_refused : legalOpcode 0xFF#8 = false := by decide
theorem test_txbyte_operand_refused : (AsmLine.txbyte 256).wellFormed = false := by decide
theorem test_addr_operand_refused : (AsmLine.addr 256 .read).wellFormed = false := by decide
theorem test_wrreg_operands_refused :
    (AsmLine.wrreg 256 0 0).wellFormed = false ∧ (AsmLine.wrreg 0 256 0).wellFormed = false ∧
      (AsmLine.wrreg 0 0 256).wellFormed = false := by decide
theorem test_rdreg_operands_refused :
    (AsmLine.rdreg 256 0).wellFormed = false ∧ (AsmLine.rdreg 0 256).wellFormed = false := by decide
theorem test_reserved_words_rejected :
    decodeTableWord 32 0x00000000 = none ∧ decodeTableWord 32 0x08123456 = none ∧
      decodeTableWord 32 0xFFFFFFFF = none := by decide
theorem test_long_word_rejected : decodeTableWord 40 0x01000000 = none := by decide

/-! ## Words of the spec (95_test_vectors.md section 3) decode to their commands -/

theorem test_decode_start : decodeTableWord 32 0x01ABCDEF = some .start := by decide
theorem test_decode_stop : decodeTableWord 32 0x02000000 = some .stop := by decide
theorem test_decode_txbyte : decodeTableWord 32 0x03FFFF55 = some (.txbyte 0x55#8) := by decide
theorem test_decode_rxbyte_nack : decodeTableWord 32 0x040000FF = some (.rxbyte .NACK) := by decide
theorem test_decode_rxbyte_ack : decodeTableWord 32 0x040000FE = some (.rxbyte .ACK) := by decide
theorem test_decode_addr : decodeTableWord 32 0x05D00001 = some (.addr 0xD0#8 .read) := by decide
theorem test_decode_wrreg : decodeTableWord 32 0x06D00055 = some (.wrreg 0xD0#8 0x00#8 0x55#8) := by decide
theorem test_decode_rdreg : decodeTableWord 32 0x07D000FF = some (.rdreg 0xD0#8 0x00#8) := by decide

/-- The worked encodings of R59. -/
theorem test_encode_worked :
    encode (.wrreg 0xD0 0x00 0x55) = 0x06D00055#32 ∧ encode (.rdreg 0xD0 0x00) = 0x07D00000#32 ∧
      encode (.addr 0xD0 .read) = 0x05D00001#32 ∧ encode (.txbyte 0x55) = 0x03000055#32 := by decide

/-- A text in the syntax of R59. -/
theorem test_assemble_text :
    assembleText ["START ; claim the bus".toList, "ADDR 0xD0, R".toList, "; nothing".toList,
        "RXBYTE NACK".toList, "TXBYTE 85".toList, "WRREG 0xD0, 0x00, 0x55".toList, "STOP".toList] =
      some [0x01000000#32, 0x05D00001#32, 0x04000001#32, 0x03000055#32, 0x06D00055#32, 0x02000000#32] := by decide

theorem test_assemble_text_refuses :
    assembleText ["TXBYTE 256".toList] = none ∧ assembleText ["start".toList] = none ∧
      assembleText ["ADDR 0xD0".toList] = none := by decide

/-! ## One step of each command -/

/-- R80: the START edge is number 5; the command completes with number 7. -/
theorem test_start_edge :
    after (fun t => (t.sdaOut, t.upc, t.busy)) .start { atOp 5 with sdaDir := .OUT } = some (.L, 6, true) := by decide
theorem test_start_completes :
    after (fun t => (t.sclOut, t.busy, t.done)) .start (atOp 7) = some (.L, false, true) := by decide

/-- R81: the clock is lowered first; the STOP edge is number 6. -/
theorem test_stop_lowers_clock_first :
    after (fun t => (t.sclOut, t.sdaOut)) .stop { idle with busy := true } = some (.L, .H) := by decide
theorem test_stop_edge : after (fun t => t.tr) .stop (atOp 6) = some [.SDA .H] := by decide

/-- R75: bit 7 first; the acknowledge is sampled at offset 53. -/
theorem test_txbyte_first_bit : after (fun t => t.tr) (.txbyte 0x55) (atOp 1) = some [.SDA .L] := by decide
theorem test_txbyte_samples_ack :
    after (fun t => (t.ackf, t.res)) (.txbyte 0x55) { atOp 53 with envSda := .L } = some (.ACK, .OK) := by decide

/-- R77: `SH <- {SH[6:0], b}`; the byte is presented at offset 72. -/
theorem test_rxbyte_shifts :
    after (fun t => (t.sh, t.rxd)) (.rxbyte .NACK) { atOp 13 with sh := 0x81 } = some (0x03#8, 0x00#8) := by decide
theorem test_rxbyte_presents :
    after (fun t => (t.rxd, t.rxv, t.done)) (.rxbyte .ACK) { atOp 72 with sh := 0x42 } =
      some (0x42#8, true, true) := by decide

/-- R53: `AddrByte(0xD1, 0) = 0xD0`, `AddrByte(0xD0, 1) = 0xD1`: bit 0 is set up at offset 43. -/
theorem test_addr_ignores_bit_zero : after (fun t => t.tr) (.addr 0xD1 .write) (atOp 43) = some [.SDA .L] := by decide
theorem test_addr_sends_direction : after (fun t => t.tr) (.addr 0xD0 .read) (atOp 43) = some [.SDA .H] := by decide

/-- R85: a NACK at the address selects `Stop()`; one at the data byte is recorded and skips nothing. -/
theorem test_wrreg_nack_address :
    after (fun t => (t.res, t.ackf, t.busy)) (.wrreg 0xD0 0x00 0x55) (atOp 61) =
      some (.NACK_ADDRESS, .NACK, true) := by decide +kernel
theorem test_wrreg_nack_data :
    after (fun t => (t.res, t.ackf)) (.wrreg 0xD0 0x00 0x55) (atOp 175) = some (.NACK_DATA, .NACK) := by decide +kernel

/-- R86: a NACK after the repeated start is code 4; the byte is presented at offset 259. -/
theorem test_rdreg_nack_readdress :
    after (fun t => (t.res, t.ackf)) (.rdreg 0xD0 0x00) (atOp 183) = some (.NACK_READDRESS, .NACK) := by decide +kernel
theorem test_rdreg_presents :
    after (fun t => (t.rxd, t.rxv, t.ost)) (.rdreg 0xD0 0x00) { atOp 259 with sh := 0x42 } =
      some (0x42#8, true, .DATA_RECEIVED) := by decide +kernel

/-- R36, R31: STATUS reads `0x00000004` after reset. -/
theorem test_reset_status : hostRead 1 State.reset = 0x00000004#32 := by decide

/-! ## Witnesses: every statement with hypotheses has states and operands that meet them -/

theorem test_witness_EncodeDecodeKeepsUsedBits :
    decode 0x01FFFFFF#32 = .ok .start ∧ decode 0x02FFFFFF#32 = .ok .stop ∧
    decode 0x03FFFFFF#32 = .ok (.txbyte 0xFF#8) ∧ decode 0x04FFFFFF#32 = .ok (.rxbyte .NACK) ∧
    decode 0x05FFFFFF#32 = .ok (.addr 0xFF#8 .read) ∧ decode 0x06FFFFFF#32 = .ok (.wrreg 0xFF#8 0xFF#8 0xFF#8) ∧
    decode 0x07FFFFFF#32 = .ok (.rdreg 0xFF#8 0xFF#8) := ⟨rfl, rfl, rfl, rfl, rfl, rfl, rfl⟩

theorem test_witness_DecodeDependsOnOpcodeAlone :
    0x01FFFFFF#32 &&& 0xFF000000#32 = 0x01000000#32 ∧ 0x02FFFFFF#32 &&& 0xFF000000#32 = 0x02000000#32 ∧
    0x03FFFFFF#32 &&& 0xFF000000#32 = 0x03000000#32 ∧ 0x04FFFFFF#32 &&& 0xFF000000#32 = 0x04000000#32 ∧
    0x05FFFFFF#32 &&& 0xFF000000#32 = 0x05000000#32 ∧ 0x06FFFFFF#32 &&& 0xFF000000#32 = 0x06000000#32 ∧
    0x07FFFFFF#32 &&& 0xFF000000#32 = 0x07000000#32 ∧ (0x00FFFFFF#32).extractLsb' 24 8 = 0x00#8 ∧
    0x08#8 ≤ (0x08000000#32).extractLsb' 24 8 ∧ 0x08#8 ≤ (0xFFFFFFFF#32).extractLsb' 24 8 := by decide

theorem test_witness_IgnoredFieldsChangeNothing :
    decode 0x040000FF#32 = .ok (.rxbyte .NACK) ∧
    0x040000FF#32 &&& usedBits (.rxbyte .NACK) = 0x04FFFF01#32 &&& usedBits (.rxbyte .NACK) ∧
    decode 0x06D00055#32 = .ok (.wrreg 0xD0 0x00 0x55) ∧
    0x06D00055#32 ||| ignoredBits (.wrreg 0xD0 0x00 0x55) = 0x06D10055#32 ||| ignoredBits (.wrreg 0xD0 0x00 0x55) ∧
    idle.busy = false := ⟨rfl, rfl, rfl, rfl, rfl⟩

theorem test_witness_AssemblerWords :
    (∃ d, d = 255 ∧ d < 256) ∧ (∃ sa ra d, sa = 0 ∧ ra = 255 ∧ d = 255 ∧ sa < 256 ∧ ra < 256 ∧ d < 256) ∧
    (∃ d, d = 256 ∧ 256 ≤ d) ∧ (∃ sa ra d, sa = 255 ∧ ra = 255 ∧ d = 256 ∧ (256 ≤ sa ∨ 256 ≤ ra ∨ 256 ≤ d)) := by
  simp

theorem test_witness_MicroOperationEffects : (atOp 0).sdaDir = .IN ∧ idle.sdaDir = .OUT := ⟨rfl, rfl⟩

theorem test_witness_WiresAreWiredAnd :
    (∃ t, exec .start idle = .next t) ∧ exec .start (atOp 8) = .fault .noMicroOperation ∧
    exec (.rxbyte .ACK) { atOp 5 with sdaDir := .OUT } = .refused .readWhileOutput := ⟨⟨_, rfl⟩, rfl, rfl⟩

theorem test_witness_OnePinRegisterPerStep : ∃ t, exec .start idle = .next t ∧ exec (.txbyte 0) (atOp 53) ≠ .next t :=
  ⟨_, rfl, by simp [exec_eq_performAt, performAt_next]; decide +kernel⟩

theorem test_witness_StartMicroOperations : (atOp 0).upc = 0 ∧ (atOp 7).upc = 7 := ⟨rfl, rfl⟩

theorem test_witness_StopMicroOperations : (atOp 0).upc = 0 ∧ (atOp 7).upc = 7 := ⟨rfl, rfl⟩

theorem test_witness_TransmittedBitsMicroOperations :
    Sends (.txbyte 0xD0) 0xD0 ∧ Sends (.addr 0xD1 .write) 0xD0 ∧ (atOp 0).upc = 6 * 0 ∧ (atOp 47).upc = 6 * 7 + 5 :=
  ⟨.inl rfl, .inr ⟨_, _, rfl, rfl⟩, rfl, rfl⟩

theorem test_witness_TransmitAckMicroOperations :
    Sends (.addr 0xFF .read) 0xFF ∧ (atOp 48).upc = 48 ∧ (atOp 53).upc = 53 ∧ (atOp 53).sdaDir = .IN ∧
    { atOp 53 with sdaDir := .OUT }.sdaDir = .OUT ∧ (atOp 56).upc = 56 :=
  ⟨.inr ⟨_, _, rfl, rfl⟩, rfl, rfl, rfl, rfl, rfl⟩

theorem test_witness_AddrSendsAddressByte :
    (0x05D000FE#32).extractLsb' 24 8 = 0x05#8 ∧ 0xD0#8 &&& 0xFE#8 = 0xD1#8 &&& 0xFE#8 := by decide

theorem test_witness_ReceivedBitsMicroOperations :
    (atOp 0).upc = 0 ∧ (atOp 8).upc = 8 * 1 ∧ (atOp 5).upc = 8 * 0 + 5 ∧ (atOp 61).upc = 8 * 7 + 5 ∧
    (atOp 61).sdaDir = .IN ∧ { atOp 61 with sdaDir := .OUT }.sdaDir = .OUT ∧ (atOp 63).upc = 8 * 7 + 7 :=
  ⟨rfl, rfl, rfl, rfl, rfl, rfl, rfl⟩

theorem test_witness_ReceiveAckMicroOperations : (atOp 64).upc = 64 ∧ (atOp 72).upc = 72 := ⟨rfl, rfl⟩

theorem test_witness_WrregStepAnswersNext :
    ((atOp 0).upc < wrregLength .OK ∧ (atOp 186).upc < wrregLength .OK) ∧
    (∀ k ∈ [61, 118, 175], (atOp k).upc ∈ wrregReads .OK ∧ (atOp k).sdaDir = .IN) ∧
    (atOpRes 72 .NACK_ADDRESS).upc < wrregLength (atOpRes 72 .NACK_ADDRESS).res ∧
    (atOpRes 129 .NACK_REGISTER).upc < wrregLength (atOpRes 129 .NACK_REGISTER).res := by decide

theorem test_witness_RdregStepAnswersNext :
    ((atOp 0).upc < rdregLength .OK ∧ (atOp 267).upc < rdregLength .OK) ∧
    (∀ k ∈ [61, 118, 183, 192, 248], (atOp k).upc ∈ rdregReads .OK ∧ (atOp k).sdaDir = .IN) ∧
    (atOpRes 72 .NACK_ADDRESS).upc < rdregLength (atOpRes 72 .NACK_ADDRESS).res ∧
    (atOpRes 129 .NACK_REGISTER).upc < rdregLength (atOpRes 129 .NACK_REGISTER).res ∧
    (atOpRes 194 .NACK_READDRESS).upc < rdregLength (atOpRes 194 .NACK_READDRESS).res ∧
    (atOp 187).upc = 187 ∧ (atOp 259).upc = 259 ∧ rdregLength .OK = 268 ∧ rdregLength .NACK_READDRESS ≠ 268 := by decide

theorem test_witness_CompositeStagesArePrimitiveCommands :
    (122, .txbyte 0x55) ∈ wrregStages 0xD0 0x00 0x55 (atOp 178).res ∧ 122 ≤ (atOp 178).upc ∧
    (∃ u, exec (.txbyte 0x55) { atOp 178 with upc := 178 - 122 } = .next u) ∧
    (130, .addr 0xD0 .read) ∈ rdregStages 0xD0 0x00 (atOp 130).res ∧ 130 ≤ (atOp 130).upc ∧
    (∃ u, exec (.addr 0xD0 .read) { atOp 130 with upc := 130 - 130 } = .next u) :=
  ⟨by decide, by decide, ⟨_, rfl⟩, by decide, by decide, ⟨_, rfl⟩⟩

theorem test_witness_CompositeReadWhileOutputIsRefused :
    { atOp 175 with sdaDir := .OUT }.sdaDir = .OUT ∧ { atOp 175 with sdaDir := .OUT }.upc ∈ wrregReads .OK ∧
    { atOp 248 with sdaDir := .OUT }.upc ∈ rdregReads .OK := by decide

theorem test_witness_PastLastMicroOperationStops :
    8 ≤ (atOp 8).upc ∧ 57 ≤ (atOp 57).upc ∧ 73 ≤ (atOp 73).upc ∧ wrregLength (atOp 187).res ≤ (atOp 187).upc ∧
    rdregLength (atOp 268).res ≤ (atOp 268).upc := by decide

theorem test_witness_StartAndStopRuns : idle.upc = 0 ∧ (List.replicate 8 Level.L).length = 8 := ⟨rfl, rfl⟩

theorem test_witness_TransmittedByteRun :
    Sends (.txbyte 0xD0) 0xD0 ∧ idle.upc = 0 ∧ (List.replicate 57 Level.L).length = 57 ∧
    LevelAt (List.replicate 57 .L) 53 .L ∧ LevelAt (List.replicate 57 .H) 53 .H := ⟨.inl rfl, rfl, rfl, rfl, rfl⟩

theorem test_witness_ReceivedByteRun : idle.upc = 0 ∧ (List.replicate 73 Level.H).length = 73 := ⟨rfl, rfl⟩

/-- All levels L but the one at `k`. -/
def lowBut (n k : Nat) : List Level := List.replicate k .L ++ [.H] ++ List.replicate (n - k - 1) .L

theorem lowBut_length {n k : Nat} (h : k < n) : (lowBut n k).length = n := by
  simp [lowBut]; omega

theorem test_witness_WrregRuns :
    idle.upc = 0 ∧ idle.res = .OK ∧
    ((lowBut 187 175).length = 187 ∧ LevelAt (lowBut 187 175) 61 .L ∧ LevelAt (lowBut 187 175) 118 .L ∧
      LevelAt (lowBut 187 175) 175 .H ∧ LevelAt (lowBut 187 186) 175 .L) ∧
    ((lowBut 130 118).length = 130 ∧ LevelAt (lowBut 130 118) 61 .L ∧ LevelAt (lowBut 130 118) 118 .H) ∧
    ((lowBut 73 61).length = 73 ∧ LevelAt (lowBut 73 61) 61 .H) :=
  ⟨rfl, rfl, ⟨rfl, rfl, rfl, rfl, rfl⟩, ⟨rfl, rfl, rfl⟩, ⟨rfl, rfl⟩⟩

theorem test_witness_RdregRuns :
    idle.upc = 0 ∧ idle.res = .OK ∧
    ((lowBut 268 192).length = 268 ∧ LevelAt (lowBut 268 192) 61 .L ∧ LevelAt (lowBut 268 192) 118 .L ∧
      LevelAt (lowBut 268 192) 183 .L) ∧
    ((lowBut 195 183).length = 195 ∧ LevelAt (lowBut 195 183) 61 .L ∧ LevelAt (lowBut 195 183) 118 .L ∧
      LevelAt (lowBut 195 183) 183 .H) ∧
    ((lowBut 130 118).length = 130 ∧ LevelAt (lowBut 130 118) 61 .L ∧ LevelAt (lowBut 130 118) 118 .H) ∧
    ((lowBut 73 61).length = 73 ∧ LevelAt (lowBut 73 61) 61 .H) :=
  ⟨rfl, rfl, ⟨lowBut_length (by decide), rfl, rfl, rfl⟩, ⟨lowBut_length (by decide), rfl, rfl, rfl⟩, ⟨rfl, rfl, rfl⟩, ⟨rfl, rfl⟩⟩

/-- WRREG 0xD0, 0x00, 0x55 at an offset, every sample so far an acknowledge. -/
theorem wrreg_midway {k : Nat} (h : k < 187) : Inv (midway 0x06D00055#32 (.wrreg 0xD0 0x00 0x55) k .OK) :=
  midway_inv rfl h (.inl rfl)

/-- RDREG 0xD0, 0x00 likewise. -/
theorem rdreg_midway {k : Nat} (h : k < 268) : Inv (midway 0x07D00000#32 (.rdreg 0xD0 0x00) k .OK) :=
  midway_inv rfl h (.inl rfl)

/-- WRREG 0xD0, 0x00, 0x55 one micro-operation after a NACK at the address. -/
theorem wrreg_nacked : Inv (midway 0x06D00055#32 (.wrreg 0xD0 0x00 0x55) 72 .NACK_ADDRESS) := by
  refine midway_inv rfl (by decide) (.inr ⟨⟨.readDataLine, [.sampleAck (some .NACK_ADDRESS)]⟩, ?_, by simp⟩)
  exact List.mem_of_getElem? (i := 61) rfl

theorem test_witness_OrchestratorStateFollowsStages :
    (∀ k ∈ [0, 7, 8, 64, 65, 178, 179, 186],
      Inv (midway 0x06D00055#32 (.wrreg 0xD0 0x00 0x55) k .OK)) ∧
    (∀ k ∈ [0, 7, 8, 64, 65, 129, 130, 186, 187, 259, 260, 267],
      Inv (midway 0x07D00000#32 (.rdreg 0xD0 0x00) k .OK)) ∧
    Inv (midway 0x06D00055#32 (.wrreg 0xD0 0x00 0x55) 72 .NACK_ADDRESS) ∧
    Inv (midway 0x01000000#32 .start 7 .OK) ∧
    (midway 0x06D00055#32 (.wrreg 0xD0 0x00 0x55) 72 .NACK_ADDRESS).busy = true :=
  ⟨fun k h => wrreg_midway (by simp at h; omega), fun k h => rdreg_midway (by simp at h; omega), wrreg_nacked,
   midway_inv rfl (by decide) (.inl rfl), rfl⟩

theorem test_witness_CompositeTracesArePrimitiveSequences :
    idle.busy = false ∧ (List.replicate 8 Level.H).length = 8 ∧ (List.replicate 57 Level.L).length = 57 ∧
    (List.replicate 73 Level.H).length = 73 ∧ LevelAt (List.replicate 57 .L) 53 .L := ⟨rfl, rfl, rfl, rfl, rfl⟩

theorem test_witness_HostWriteCommand :
    idle.rst = false ∧ { idle with agenda := [.hostWrite 0 0x01000000#32] }.agenda = .hostWrite 0 0x01000000#32 :: [] ∧
    (atOp 0).busy = true ∧ idle.busy = false ∧ 1 ≤ ((0x01000000#32).extractLsb' 24 8).toNat ∧
    ((0x07FFFFFF#32).extractLsb' 24 8).toNat ≤ 7 ∧ ((0x00FFFFFF#32).extractLsb' 24 8).toNat = 0 ∧
    8 ≤ ((0x08000000#32).extractLsb' 24 8).toNat ∧ 8 ≤ ((0xFFFFFFFF#32).extractLsb' 24 8).toNat := by decide

theorem test_witness_IllegalCommandCompletesAtOnce :
    idle.busy = false ∧ ((0x00000000#32).extractLsb' 24 8).toNat = 0 ∧ 8 ≤ ((0x08000000#32).extractLsb' 24 8).toNat :=
  by decide

theorem test_witness_ReadOnlyRegistersIgnoreWrites : (1 : Nat) ≠ 0 ∧ (2 : Nat) ≠ 0 ∧ (3 : Nat) ≠ 0 := by decide

theorem test_witness_HostReadReturnsRegisters :
    2 < 3 ∧ idle.rst = false ∧ { idle with rst := true }.rst = true := ⟨by decide, rfl, rfl⟩

theorem test_witness_StatusLayout : idle.rst = false := rfl

theorem test_witness_RejectedWriteIsStickyAndHarmless :
    (atOp 0).busy = true ∧
    (∃ t, step { idle with rej := true, agenda := [.hostRead 1] } = .next t ∧ t.rej = true) ∧
    (∃ t, (midway 0x01000000#32 .start 0 .OK).busy = true ∧ (midway 0x01000000#32 .start 0 .OK).rst = false ∧
      sequencerTurn (midway 0x01000000#32 .start 0 .OK) = .next t) := ⟨rfl, ⟨_, rfl, rfl⟩, ⟨_, rfl, rfl, rfl⟩⟩

/-- The block in reset. -/
theorem inReset_inv : Inv { idle with rst := true } where
  running h := nomatch h
  not_both h := nomatch h
  idle_pins _ := .inr (by simp [State.pins, idle, State.reset])
  idle_orch _ := rfl
  no_byte _ := rfl
  nack_flag h := absurd rfl h
  upc_bound := by decide
  fresh _ _ := by simp [AtReset, idle, State.reset]
  in_reset _ := by simp [AtReset, idle, State.reset]
  observed := rfl

theorem test_witness_ResetTakesEffectInOneStep :
    { atOp 5 with agenda := [.assertReset, .sequencer] }.agenda = .assertReset :: [.sequencer] ∧
    Inv { idle with rst := true } ∧ (∃ t, turn .releaseReset { idle with rst := true } = .next t) ∧
    (∃ t, step { midway 0x01000000#32 .start 7 .OK with agenda := [.sequencer] } = .next t ∧ t.busy = false) :=
  ⟨rfl, inReset_inv, ⟨_, rfl⟩, ⟨_, rfl, rfl⟩⟩

theorem test_witness_ResetKeepsWhatIsOutside :
    { atOp 5 with agenda := [.assertReset, .sequencer] }.agenda = .assertReset :: [.sequencer] := rfl

theorem test_witness_StepRunsDecodedCommand :
    (midway 0x03000055#32 (.txbyte 0x55) 0 .OK).rst = false ∧ (midway 0x03000055#32 (.txbyte 0x55) 0 .OK).busy = true ∧
    decode (midway 0x03000055#32 (.txbyte 0x55) 0 .OK).cmdr = .ok (.txbyte 0x55) ∧
    (∃ t, exec (.txbyte 0x55) (midway 0x03000055#32 (.txbyte 0x55) 0 .OK) = .next t) ∧
    exec (.txbyte 0x55) { atOp 53 with sdaDir := .OUT } = .refused .readWhileOutput ∧
    exec (.txbyte 0x55) (atOp 57) = .fault .noMicroOperation ∧
    (∃ t, exec (.txbyte 0x55) (freeEnvironment (midway 0x03000055#32 (.txbyte 0x55) 0 .OK)) = .next t) ∧
    exec (.txbyte 0x55) (freeEnvironment { atOp 53 with sdaDir := .OUT }) = .refused .readWhileOutput ∧
    exec (.txbyte 0x55) (freeEnvironment (atOp 57)) = .fault .noMicroOperation ∧ (atOp 57).agenda = [] :=
  ⟨rfl, rfl, rfl, ⟨_, rfl⟩, rfl, rfl, ⟨_, rfl⟩, rfl, rfl, rfl⟩

theorem test_witness_IdleSequencerHasNoStep :
    idle.busy = false ∧ { idle with agenda := [.sequencer] }.agenda = .sequencer :: [] ∧ idle.agenda = [] :=
  ⟨rfl, rfl, rfl⟩

theorem test_witness_PlacedWordRunsNext :
    decodeTableWord 32 0x01000000 = some .start ∧
    ∃ t, exec .start { idle with
        rst := false, cmdr := BitVec.ofNat 32 0x01000000, upc := 0, done := false, res := .OK, rxv := false,
        rxd := 0x00#8, busy := true } = .next t := ⟨by decide, _, rfl⟩

theorem test_witness_StepsFollowExecRun :
    (midway 0x01000000#32 .start 6 .OK).rst = false ∧ decode (midway 0x01000000#32 .start 6 .OK).cmdr = .ok .start ∧
    (∀ (k : Nat) (u : State), k < [Level.L, Level.H].length →
      execRun .start ([Level.L, Level.H].take k) { midway 0x01000000#32 .start 6 .OK with agenda := turnsOf [.L, .H] } =
        .next u → u.busy = true) ∧
    (∃ t, execRun .start [.L, .H] { midway 0x01000000#32 .start 6 .OK with agenda := turnsOf [.L, .H] } = .next t ∧
      t.busy = false) := by
  refine ⟨rfl, rfl, ?_, ⟨_, rfl, rfl⟩⟩
  intro k u hk h
  match k, hk with
  | 0, _ => injection h with h; subst h; rfl
  | 1, _ => injection h with h; subst h; rfl

theorem test_witness_CommandAndIndexWrites :
    (∃ t, step { idle with agenda := [.hostWrite 0 0x03000055#32] } = .next t ∧ t.cmdr ≠ idle.cmdr) ∧
    (∃ t, step { atOp 5 with agenda := [.assertReset] } = .next t ∧ t.upc ≠ 5) ∧
    (∃ t, step { midway 0x01000000#32 .start 0 .OK with agenda := [.sequencer] } = .next t ∧ t.upc ≠ 0) :=
  ⟨⟨_, rfl, by decide⟩, ⟨_, rfl, by decide⟩, ⟨_, rfl, by decide⟩⟩

theorem test_witness_PinsWrittenBySequencerOrReset :
    (∃ t, step { midway 0x01000000#32 .start 5 .OK with agenda := [.sequencer] } = .next t ∧
      t.pins ≠ (midway 0x01000000#32 .start 5 .OK).pins) ∧
    (∃ t, step { atOp 5 with agenda := [.assertReset] } = .next t ∧ t.pins ≠ (atOp 5).pins) :=
  ⟨⟨_, rfl, by decide⟩, ⟨_, rfl, by decide⟩⟩

theorem test_witness_AckfChangesOnlyAtSamples :
    (∃ t, step { atOp 53 with cmdr := 0x03000055#32, envSda := .L, agenda := [.sequencer] } = .next t ∧
      t.ackf ≠ (atOp 53).ackf) ∧
    (∃ t, step { atOp 5 with ackf := .ACK, agenda := [.assertReset] } = .next t ∧ t.ackf ≠ .ACK) :=
  ⟨⟨_, rfl, by decide +kernel⟩, ⟨_, rfl, by decide⟩⟩

theorem test_witness_BusyFallsOnlyAtCompletionOrReset :
    (∃ t, step { midway 0x01000000#32 .start 7 .OK with agenda := [.sequencer] } = .next t ∧ t.busy = false) ∧
    (∃ t, (atOp 5).busy = true ∧ step { atOp 5 with agenda := [.assertReset] } = .next t ∧ t.busy = false) :=
  ⟨⟨_, rfl, rfl⟩, ⟨_, rfl, rfl, rfl⟩⟩

theorem test_witness_TraceGrowsByOneEvent :
    (∃ t, step { midway 0x01000000#32 .start 0 .OK with agenda := [.sequencer] } = .next t ∧ t.tr = [.SDA .H]) ∧
    (∃ t, step { idle with agenda := [.hostRead 1] } = .next t) ∧
    (∃ t, step { idle with upc := 8, agenda := [.hostWrite 0 0x02000000#32] } = .next t ∧ t.upc = 0 ∧ t.tr = []) ∧
    (∃ t, step { atOp 5 with agenda := [.assertReset] } = .next t) :=
  ⟨⟨_, rfl, rfl⟩, ⟨_, rfl⟩, ⟨_, rfl, rfl, rfl⟩, ⟨_, rfl⟩⟩

theorem test_witness_EnvironmentSeenOnlyByReads :
    ∃ t u, exec (.txbyte 0x55) (atOp 0) = .next t ∧ exec (.txbyte 0x55) (holdSda .L (atOp 0)) = .next u ∧
      ∀ v, t.tr ≠ (atOp 0).tr ++ [.RD v] := by
  refine ⟨_, _, rfl, rfl, ?_⟩
  intro v; cases v <;> decide

theorem test_witness_ConditionCommandsFrame :
    (∃ t, exec .start (atOp 0) = .next t) ∧ (∃ t, exec .stop (atOp 7) = .next t) := ⟨⟨_, rfl⟩, ⟨_, rfl⟩⟩

theorem test_witness_TransmitCommandsFrame :
    Sends (.txbyte 0x55) 0x55 ∧ Sends (.addr 0xD1 .read) 0xD1 ∧ (∃ t, exec (.txbyte 0x55) (atOp 53) = .next t) ∧
    (∃ t, exec (.addr 0xD1 .read) (atOp 56) = .next t) :=
  ⟨.inl rfl, .inr ⟨_, _, rfl, rfl⟩, ⟨_, rfl⟩, ⟨_, rfl⟩⟩

theorem test_witness_ReceiveCommandFrame :
    (∃ t, exec (.rxbyte .ACK) (atOp 1) = .next t) ∧ (∃ t, exec (.rxbyte .NACK) (atOp 72) = .next t) :=
  ⟨⟨_, rfl⟩, ⟨_, rfl⟩⟩

theorem test_witness_CompositeCommandsOrchestratorFrame :
    (∃ t, exec (.wrreg 0xD0 0x00 0x55) (atOp 8) = .next t) ∧ 8 ∉ [7, 64, 178] ∧ 8 + 1 ≠ wrregLength .OK ∧
    (∃ t, exec (.rdreg 0xD0 0x00) (atOp 185) = .next t) ∧ 185 ∉ [7, 64, 129, 186, 259] ∧ 185 + 1 ≠ rdregLength .OK :=
  ⟨⟨_, rfl⟩, by decide, by decide, ⟨_, rfl⟩, by decide, by decide⟩

theorem test_witness_StepKeepsInvariant :
    Inv (midway 0x06D00055#32 (.wrreg 0xD0 0x00 0x55) 61 .OK) ∧
    ∃ t, step { midway 0x06D00055#32 (.wrreg 0xD0 0x00 0x55) 61 .OK with agenda := [.sequencer] } = .next t :=
  ⟨wrreg_midway (by decide), _, rfl⟩

theorem test_witness_InvariantStateNeverStops :
    Inv idle ∧ Inv (midway 0x07D00000#32 (.rdreg 0xD0 0x00) 248 .OK) := ⟨idle_inv, rdreg_midway (by decide)⟩

theorem test_witness_EveryCommandCompletes :
    Inv (midway 0x07D00000#32 (.rdreg 0xD0 0x00) 0 .OK) ∧ (midway 0x07D00000#32 (.rdreg 0xD0 0x00) 0 .OK).busy = true ∧
    (midway 0x07D00000#32 (.rdreg 0xD0 0x00) 0 .OK).agenda = [] := ⟨rdreg_midway (by decide), rfl, rfl⟩

theorem test_witness_DataMovesOnlyUnderLowClock :
    Inv (midway 0x01000000#32 .start 5 .OK) ∧
    (∃ t, sequencerTurn (midway 0x01000000#32 .start 5 .OK) = .next t ∧
      sdaPullLow t ≠ sdaPullLow (midway 0x01000000#32 .start 5 .OK)) ∧
    Inv (midway 0x06D00055#32 (.wrreg 0xD0 0x00 0x55) 57 .OK) ∧
    (∃ t, sequencerTurn (midway 0x06D00055#32 (.wrreg 0xD0 0x00 0x55) 57 .OK) = .next t ∧
      sdaPullLow t ≠ sdaPullLow (midway 0x06D00055#32 (.wrreg 0xD0 0x00 0x55) 57 .OK)) :=
  ⟨midway_inv rfl (by decide) (.inl rfl), ⟨_, rfl, by decide⟩, wrreg_midway (by decide), ⟨_, rfl, by decide +kernel⟩⟩

theorem test_witness_RxdataZeroUntilValid :
    Inv idle ∧ (hostRead 1 idle).getLsbD 3 = false ∧
    (∃ t, step { atOp 72 with cmdr := 0x04000000#32, agenda := [.sequencer] } = .next t ∧ t.rxv = true) ∧
    (atOp 72).rxv = false ∧ idle.busy = false := ⟨idle_inv, rfl, ⟨_, rfl, rfl⟩, rfl, rfl⟩

/-- A history of wire states that ends between bytes with the clock low and data high: a START, then nine bits. -/
def afterByte : List WireState :=
  (.H, .H) :: (.H, .L) :: (List.replicate 9 [(Level.L, Level.H), (.H, .H)]).flatten ++ [(.L, .H)]

/-- The first micro-operation of a command (word `w`) from the idle bus, under a schedule. -/
def fromIdle (w : Word) (agenda : List Turn) : State := { idle with cmdr := w, busy := true, agenda := agenda }

/-- The same after a transmitted byte: clock low, data line an input. -/
def fromByte (w : Word) (agenda : List Turn) : State :=
  { fromIdle w agenda with sclOut := .L, sdaDir := .IN, wave := afterByte }

theorem fromIdle_atFirstOp (w : Word) (agenda : List Turn) : AtFirstOp (fromIdle w agenda) :=
  ⟨rfl, rfl, rfl, .inr (by simp [State.pins, fromIdle, idle, State.reset]), rfl, rfl, rfl⟩

theorem fromByte_atFirstOp (w : Word) (agenda : List Turn) : AtFirstOp (fromByte w agenda) :=
  ⟨rfl, rfl, rfl, .inl rfl, rfl, rfl, rfl⟩

theorem test_witness_ConditionsShowOnTheWires :
    AtFirstOp (fromIdle 0x02000000#32 (sequencerTurns 8)) ∧ AtFirstOp (fromByte 0x01000000#32 (sequencerTurns 8)) ∧
    (bitGroup (fromIdle 0x02000000#32 []).wave).length < 8 ∧ (bitGroup afterByte).length < 8 ∧
    (bitGroup ((.H, .H) :: (.H, .L) :: (List.replicate 7 [(Level.L, Level.H), (.H, .H)]).flatten)).length = 7 ∧
    busEvents afterByte = [.START, .BYTE 0xFF .NACK] ∧
    decode 0x01000000#32 = .ok .start ∧ decode 0x02000000#32 = .ok .stop :=
  ⟨fromIdle_atFirstOp _ _, fromByte_atFirstOp _ _, by decide, by decide, by decide, by decide, rfl, rfl⟩

theorem test_witness_BytesShowOnTheWires :
    (∀ a, AtFirstOp (fromIdle 0x030000D0#32 (answeringSlave a))) ∧ (fromIdle 0x030000D0#32 []).sclOut = .H ∧
    (∀ a, AtFirstOp (fromByte 0x05D10000#32 (answeringSlave a))) ∧
    bitGroup (fromIdle 0x030000D0#32 []).wave = [] ∧ bitGroup afterByte = [] ∧
    (Sends (.txbyte 0xD0) 0xD0 ∧ decode 0x030000D0#32 = .ok (.txbyte 0xD0)) ∧
    (Sends (.addr 0xD1 .write) 0xD0 ∧ decode 0x05D10000#32 = .ok (.addr 0xD1 .write)) ∧
    (AtFirstOp (fromByte 0x04000001#32 (sendingSlave (List.replicate 8 .L))) ∧
      (List.replicate 8 Level.L).length = 8 ∧ decode 0x04000001#32 = .ok (.rxbyte .NACK)) :=
  ⟨fun _ => fromIdle_atFirstOp _ _, rfl, fun _ => fromByte_atFirstOp _ _, by decide, by decide, ⟨.inl rfl, rfl⟩,
   ⟨.inr ⟨_, _, rfl, rfl⟩, rfl⟩, ⟨fromByte_atFirstOp _ _, rfl, rfl⟩⟩

theorem test_witness_DelaySums :
    ∃ cfg : BusConfiguration, cfg.tSettle = cfg.tHigh ∧ cfg.tSettle ≤ cfg.tHigh := ⟨default, rfl, Nat.le_refl _⟩

end Sys2Proof.Tests
end

/-! # One `exec`: what it writes, what it never reads, and the runs made of it

The statements of the scope (00_scope.md R15, R17): the sequencer's turns, when `BUSY` falls, the machine's steps as
a run of `exec`, and the completion of every command. -/

section
namespace Sys2Proof.Machine

open Sys2Proof.Expected

/-! ## What the free environment leaves unchanged -/

@[simp] theorem freeEnvironment_cmdr (s : State) : (freeEnvironment s).cmdr = s.cmdr := rfl
@[simp] theorem freeEnvironment_upc (s : State) : (freeEnvironment s).upc = s.upc := rfl
@[simp] theorem freeEnvironment_busy (s : State) : (freeEnvironment s).busy = s.busy := rfl
@[simp] theorem freeEnvironment_res (s : State) : (freeEnvironment s).res = s.res := rfl
@[simp] theorem freeEnvironment_ost (s : State) : (freeEnvironment s).ost = s.ost := rfl
@[simp] theorem freeEnvironment_rst (s : State) : (freeEnvironment s).rst = s.rst := rfl
@[simp] theorem freeEnvironment_agenda (s : State) : (freeEnvironment s).agenda = s.agenda := rfl
@[simp] theorem freeEnvironment_pins (s : State) : (freeEnvironment s).pins = s.pins := rfl

/-! ## What one `exec` can do -/

/-- The inversion lemma of `exec`: micro-operation number `UPC` of the command's routine, completed if it is the last. -/
theorem exec_next {i : Instr} {s t : State} :
    exec i s = .next t ↔
      ∃ m, (routineOf i s.res)[s.upc]? = some m ∧ ¬(m.op = .readDataLine ∧ s.sdaDir = .OUT) ∧
        t = if s.upc + 1 = (routineOf i s.res).length then complete (stepped m s) else stepped m s := by
  rw [exec_eq_performAt]
  exact performAt_next

theorem exec_upc {i : Instr} {s t : State} (h : exec i s = .next t) : t.upc = s.upc + 1 := by
  obtain ⟨m, -, -, rfl⟩ := exec_next.mp h
  split <;> simp

theorem exec_outsideKept {i : Instr} {s t : State} (h : exec i s = .next t) : OutsideKept s t := by
  obtain ⟨m, -, -, rfl⟩ := exec_next.mp h
  have := stepped_frame m s
  split <;> simp [OutsideKept, this]

/-- R17: `BUSY` and `DONE` change in the step of the routine's last micro-operation and in no other. -/
theorem exec_completesAt {i : Instr} {s t : State} (h : exec i s = .next t) :
    CompletesAt (s.upc + 1 = (routineOf i s.res).length) s t := by
  obtain ⟨m, -, -, rfl⟩ := exec_next.mp h
  obtain ⟨-, hbusy, hdone, -⟩ := stepped_frame m s
  split
  · next hlast => exact ⟨fun _ => ⟨rfl, rfl, rfl⟩, fun hn => absurd hlast hn⟩
  · next hlast => exact ⟨fun hl => absurd hl hlast, fun _ => ⟨hbusy, hdone⟩⟩

/-! ## What one `exec` never reads -/

/-- `s` with everything of `o` that a micro-operation neither reads nor writes. -/
def withOutside (o s : State) : State :=
  { s with
    cmdr := o.cmdr, rej := o.rej, rst := o.rst, envScl := o.envScl, agenda := o.agenda, reads := o.reads,
    wave := o.wave, draws := o.draws }

theorem microOp_withOutside (o : State) (v : Level) (m : MicroOp) (s : State) :
    microOp v m (withOutside o s) = withOutside o (microOp v m s) := by
  cases m <;> rfl

theorem applyEffect_withOutside (o : State) (v : Level) (s : State) (e : Effect) :
    applyEffect v (withOutside o s) e = withOutside o (applyEffect v s e) := by
  cases e with
  | sampleAck c =>
    cases c with
    | none => rfl
    | some c => cases v <;> rfl
  | _ => rfl

theorem stepped_withOutside (o : State) (m : MicroStep) (s : State) :
    stepped m (withOutside o s) = withOutside o (stepped m s) := by
  show m.effects.foldl (applyEffect (sdaIn s)) (microOp (sdaIn s) m.op (withOutside o s)) = _
  rw [microOp_withOutside]
  exact List.foldl_hom (withOutside o) fun u e => applyEffect_withOutside o (sdaIn s) u e

/-- The command's word, `REJ`, `rst`, the clock wire's environment, the schedule, the host's and the observer's record
have no part in a micro-operation. -/
theorem exec_withOutside {i : Instr} {s t : State} (o : State) (h : exec i s = .next t) :
    exec i (withOutside o s) = .next (withOutside o t) := by
  obtain ⟨m, hm, hread, rfl⟩ := exec_next.mp h
  refine exec_next.mpr ⟨m, hm, hread, ?_⟩
  rw [stepped_withOutside]
  show _ = if s.upc + 1 = (routineOf i s.res).length then _ else _
  split <;> rfl

/-! ## The sequencer while nothing runs (R15) -/

/-- Settles O39: by `sequencerTurn_idle`, after the environment's move where nothing is scheduled. -/
theorem idleSequencerHasNoStep : Obligations.IdleSequencerHasNoStep := by
  intro s hbusy
  constructor
  · intro rest hagenda
    rw [step_scheduled hagenda]
    exact sequencerTurn_idle hbusy
  · intro hagenda
    refine ⟨freeEnvironment s, ?_, freeEnvironment_frame s⟩
    rw [step_unscheduled hagenda]
    exact sequencerTurn_idle hbusy

/-! ## When `BUSY` falls (R17, R28) -/

/-- A sequencer's turn that ends a command performed the last micro-operation of its path. -/
theorem sequencerTurn_busy_falls {s t : State} (h : sequencerTurn s = .next t) (hs : s.busy = true)
    (ht : t.busy = false) :
    ∃ i, decode s.cmdr = .ok i ∧ s.upc + 1 = (routineOf i s.res).length ∧ t.upc = s.upc + 1 ∧ t.done = true ∧
      t.ost = .IDLE := by
  obtain ⟨-, rfl⟩ | ⟨-, -, i, u, hdecode, hexec, rfl⟩ := sequencerTurn_next h
  · rw [hs] at ht; cases ht
  · rw [observe_busy] at ht
    obtain ⟨hlast, hmiddle⟩ := exec_completesAt hexec
    have hend : s.upc + 1 = (routineOf i s.res).length := by
      by_contra hn
      rw [(hmiddle hn).1, hs] at ht
      cases ht
    obtain ⟨-, hdone, hOst⟩ := hlast hend
    exact ⟨i, hdecode, hend, by simpa using exec_upc hexec, by simpa using hdone, by simpa using hOst⟩

/-- No host access ends a command (R40, R41, R98). -/
theorem hostWriteTurn_keeps_busy {s : State} (n : Nat) (w : Word) (hs : s.busy = true) :
    (hostWriteTurn n w s).busy = true := by
  unfold hostWriteTurn
  split
  · exact hs
  · obtain ⟨-, h⟩ | ⟨-, -, h⟩ | ⟨-, hidle, -⟩ := hostWrite_cases n w s
    · rw [h]; exact hs
    · rw [h]; exact hs
    · rw [hs] at hidle; cases hidle

theorem hostReadTurn_busy (n : Nat) (s : State) : (hostReadTurn n s).busy = s.busy := by
  unfold hostReadTurn
  split <;> rfl

/-- Settles O45: by cases on the agent that moves; only reset and a command's last micro-operation clear `BUSY`. -/
theorem busyFallsOnlyAtCompletionOrReset : Obligations.BusyFallsOnlyAtCompletionOrReset := by
  intro s t hstep hs ht
  have stays {u : State} (he : Host.Outcome.next u = (.next t : Result)) (hu : u.busy = true) : False := by
    cases he; rw [hu] at ht; cases ht
  cases hagenda : s.agenda with
  | nil =>
    rw [step_unscheduled hagenda] at hstep
    right
    simpa using sequencerTurn_busy_falls hstep hs ht
  | cons a rest =>
    rw [step_scheduled hagenda] at hstep
    cases a with
    | sequencer => exact .inr (sequencerTurn_busy_falls (s := { s with agenda := rest }) hstep hs ht)
    | assertReset => exact .inl ⟨rest, rfl⟩
    | hostWrite n w => exact (stays hstep (hostWriteTurn_keeps_busy n w hs)).elim
    | hostRead n => exact (stays hstep ((hostReadTurn_busy n _).trans hs)).elim
    | envSda l => exact (stays hstep hs).elim
    | envScl l => exact (stays hstep hs).elim
    | releaseReset => exact (stays hstep hs).elim

/-! ## The machine's steps as a run of `exec` (R15, R67) -/

theorem runSteps_succ {n : Nat} {s t : State} (h : step s = .next t) : runSteps (n + 1) s = runSteps n t := by
  simp [runSteps, h]

/-- The inversion lemma of a run that performs at least one micro-operation. -/
theorem execRun_cons {i : Instr} {l : Level} {ls : List Level} {s t : State} :
    execRun i (l :: ls) s = .next t ↔ ∃ u, exec i (holdSda l s) = .next u ∧ execRun i ls u = .next t := by
  rw [execRun]
  cases exec i (holdSda l s) <;> simp

/-- `s` with a schedule and an observer's record of the caller's. -/
def withRecord (w : List WireState) (a : List Turn) (s : State) : State := { s with wave := w, agenda := a }

theorem exec_withRecord {i : Instr} {s t : State} (w : List WireState) (a : List Turn) (h : exec i s = .next t) :
    exec i (withRecord w a s) = .next (withRecord w a t) := by
  obtain ⟨hcmdr, hrej, hrst, hscl, -, -, hreads, -, hdraws⟩ := exec_outsideKept h
  have := exec_withOutside (withRecord w a s) h
  simpa [withOutside, withRecord, ← hcmdr, ← hrej, ← hrst, ← hscl, ← hreads, ← hdraws] using this

/-- The environment sets the data wire and the sequencer moves: together one micro-operation of `execRun`, but for the
record. -/
theorem two_steps_exec {i : Instr} {s u : State} {l : Level} {rest : List Turn} (w : List WireState) (n : Nat)
    (hrst : s.rst = false) (hbusy : s.busy = true) (hdecode : decode s.cmdr = .ok i)
    (hexec : exec i (holdSda l s) = .next u) :
    ∃ w', runSteps (n + 2) (withRecord w (.envSda l :: .sequencer :: rest) s) = runSteps n (withRecord w' rest u) := by
  obtain ⟨w₁, henv⟩ : ∃ w₁, step (withRecord w (.envSda l :: .sequencer :: rest) s) =
      .next (withRecord w₁ (.sequencer :: rest) (holdSda l s)) := ⟨_, rfl⟩
  have hseq : step (withRecord w₁ (.sequencer :: rest) (holdSda l s)) =
      .next (observe (withRecord w₁ rest u)) :=
    sequencerTurn_runs (s := withRecord w₁ rest (holdSda l s)) hrst hbusy hdecode (exec_withRecord w₁ rest hexec)
  exact ⟨(observe (withRecord w₁ rest u)).wave, by rw [runSteps_succ henv, runSteps_succ hseq]; rfl⟩

/-- The simulation: by induction on the levels, two steps of the machine for each. -/
theorem runSteps_turnsOf {i : Instr} {ls : List Level} {s t : State} (w : List WireState) (rest : List Turn)
    (hrst : s.rst = false) (hdecode : decode s.cmdr = .ok i)
    (hbusy : ∀ k u, k < ls.length → execRun i (ls.take k) s = .next u → u.busy = true)
    (hrun : execRun i ls s = .next t) :
    ∃ w', runSteps (2 * ls.length) (withRecord w (turnsOf ls ++ rest) s) = .next (withRecord w' rest t) := by
  induction ls generalizing s w with
  | nil =>
    cases hrun
    exact ⟨w, rfl⟩
  | cons l ls ih =>
    obtain ⟨u, hexec, hrest⟩ := execRun_cons.mp hrun
    obtain ⟨hcmdr, -, hurst, -⟩ := exec_outsideKept hexec
    obtain ⟨w₁, hsteps⟩ := two_steps_exec (rest := turnsOf ls ++ rest) w (2 * ls.length) hrst
      (hbusy 0 s (Nat.succ_pos _) rfl) hdecode hexec
    obtain ⟨w₂, hend⟩ := ih w₁ (hurst.trans hrst) (by rw [hcmdr]; exact hdecode)
      (fun k v hk hv => hbusy (k + 1) v (Nat.succ_lt_succ hk) (execRun_cons.mpr ⟨u, hexec, hv⟩)) hrest
    exact ⟨w₂, hsteps.trans hend⟩

/-- Settles O41: the simulation `runSteps_turnsOf` from the state's own record and schedule. -/
theorem stepsFollowExecRun : Obligations.StepsFollowExecRun := by
  intro i ls s t rest hrst hdecode hbusy hrun hagenda
  obtain ⟨w, hsteps⟩ := runSteps_turnsOf s.wave rest hrst hdecode hbusy hrun
  rw [← hagenda] at hsteps
  exact ⟨withRecord w rest t, hsteps, rfl, rfl⟩

/-! ## A running command goes on to its end (R24, R89) -/

/-- An attached write leaves `RES` as it is, or is a sample that raises the code then in `RES` (R84 (c), R96). -/
theorem applyEffect_res (v : Level) (s : State) (e : Effect) :
    (applyEffect v s e).res = s.res ∨ e = .sampleAck (some (applyEffect v s e).res) := by
  cases e with
  | sampleAck c =>
    cases c with
    | none => exact .inl rfl
    | some c =>
      cases v with
      | L => exact .inl rfl
      | H => exact .inr rfl
  | _ => exact .inl rfl

theorem applyEffects_res (v : Level) (es : List Effect) (s : State) :
    (es.foldl (applyEffect v) s).res = s.res ∨ Effect.sampleAck (some (es.foldl (applyEffect v) s).res) ∈ es := by
  induction es generalizing s with
  | nil => exact .inl rfl
  | cons e es ih =>
    rw [List.foldl_cons]
    obtain h | h := ih (applyEffect v s e)
    · rw [h]
      exact (applyEffect_res v s e).imp_right fun he => List.mem_cons.mpr (.inl he.symm)
    · exact .inr (List.mem_cons_of_mem _ h)

theorem stepped_res (m : MicroStep) (s : State) :
    (stepped m s).res = s.res ∨ Effect.sampleAck (some (stepped m s).res) ∈ m.effects := by
  have hop : (microOp (sdaIn s) m.op s).res = s.res := by rw [microOp_eq]
  simpa only [stepped, hop] using applyEffects_res (sdaIn s) m.effects (microOp (sdaIn s) m.op s)

namespace Running

variable {i : Instr} {s : State}

/-- `Running` reads the word, `UPC`, the pins, `OST` and `RES`. -/
theorem congr {t : State} (h : Running i s) (hcmdr : t.cmdr = s.cmdr) (hupc : t.upc = s.upc) (hpins : t.pins = s.pins)
    (hOst : t.ost = s.ost) (hres : t.res = s.res) : Running i t where
  command := by rw [hcmdr]; exact h.command
  below := by rw [hupc, hres]; exact h.below
  pins := by rw [hupc, hpins, hres]; exact h.pins
  orch := by rw [hupc, hOst, hres]; exact h.orch
  code := by rw [hupc, hres]; exact h.code

theorem keeps_freeEnvironment (h : Running i s) : Running i (freeEnvironment s) :=
  h.congr (by simp) (by simp) (by simp) (by simp) (by simp)

theorem keeps_observe (h : Running i s) : Running i (observe s) :=
  h.congr (by simp) (by simp) (by simp) (by simp) (by simp)

/-- A running command has a micro-operation to perform, and a read finds the direction IN (R37 (a), R121). -/
theorem next_microOp (h : Running i s) :
    ∃ m, (routineOf i s.res)[s.upc]? = some m ∧ ¬(m.op = .readDataLine ∧ s.sdaDir = .OUT) := by
  obtain ⟨p, -, hpins⟩ := h.pins
  refine ⟨_, List.getElem?_eq_getElem h.below, fun ⟨hread, hout⟩ => ?_⟩
  have hin := read_dir_in (p := p) (List.getElem?_eq_getElem h.below) hread
  rw [← hpins] at hin
  cases hin.symm.trans hout

theorem exec_exists (h : Running i s) : ∃ t, exec i s = .next t := by
  obtain ⟨m, hm, hread⟩ := h.next_microOp
  exact ⟨_, exec_next.mpr ⟨m, hm, hread, rfl⟩⟩

/-- The pins after micro-operation number `UPC` are what the routine so far makes of the pins before the command. -/
theorem pins_stepped {m : MicroStep} (h : Running i s) (hm : (routineOf i s.res)[s.upc]? = some m) :
    ∃ p : Pins, p.idleSafe ∧ (stepped m s).pins = pinsAfter ((routineOf i s.res).take (s.upc + 1)) p := by
  obtain ⟨p, hsafe, hpins⟩ := h.pins
  exact ⟨p, hsafe, by rw [stepped_pins, hpins, pinsAfter_take_succ hm]⟩

/-- Before the last micro-operation the path that `RES` selects after a step agrees so far with the path before it, and
goes on (log 5). -/
theorem path_stepped {m : MicroStep} (h : Running i s) (hm : (routineOf i s.res)[s.upc]? = some m)
    (hlast : s.upc + 1 ≠ (routineOf i s.res).length) :
    (routineOf i (stepped m s).res).take (s.upc + 1) = (routineOf i s.res).take (s.upc + 1) ∧
      s.upc + 1 < (routineOf i (stepped m s).res).length := by
  obtain hres | hraised := stepped_res m s
  · rw [hres]
    exact ⟨rfl, lt_of_le_of_ne h.below hlast⟩
  · exact paths_agree (effect_listed hm hraised)

/-- A micro-operation before the last leaves the command running. -/
theorem keeps_stepped {m : MicroStep} (h : Running i s) (hm : (routineOf i s.res)[s.upc]? = some m)
    (hlast : s.upc + 1 ≠ (routineOf i s.res).length) : Running i (stepped m s) := by
  obtain ⟨hpath, hbelow⟩ := h.path_stepped hm hlast
  obtain ⟨hcmdr, -⟩ := stepped_frame m s
  refine ⟨by rw [hcmdr]; exact h.command, by rwa [stepped_upc], ?_, ?_, ?_⟩ <;> rw [stepped_upc, hpath]
  · exact h.pins_stepped hm
  · rw [stepped_ost, h.orch, orchAfter_take_succ hm]
  · rw [take_succ_of_get hm]
    obtain hres | hraised := stepped_res m s
    · rw [hres]
      obtain hok | ⟨m', hm', he⟩ := h.code
      · exact .inl hok
      · exact .inr ⟨m', List.mem_append_left _ hm', he⟩
    · exact .inr ⟨m, List.mem_append_right _ (List.mem_singleton_self m), hraised⟩

/-- One micro-operation of a running command: it goes on, or it is complete and its pins are idle-safe (R37 (e)). -/
theorem exec_cases {t : State} (h : Running i s) (he : exec i s = .next t) :
    (t.busy = s.busy ∧ Running i t) ∨ (t.busy = false ∧ t.done = true ∧ t.ost = .IDLE ∧ t.pins.idleSafe) := by
  obtain ⟨m, hm, -, rfl⟩ := exec_next.mp he
  split
  · next hlast =>
    obtain ⟨p, -, hpins⟩ := h.pins_stepped hm
    refine .inr ⟨rfl, rfl, rfl, ?_⟩
    rw [complete_pins, hpins, hlast, List.take_length]
    exact routineOf_ends_safe i s.res p
  · next hlast =>
    obtain ⟨-, hbusy, -⟩ := stepped_frame m s
    exact .inl ⟨hbusy, h.keeps_stepped hm hlast⟩

/-- With nothing scheduled a step of a running command performs its next micro-operation. -/
theorem unscheduled_step (h : Running i s) (hrst : s.rst = false) (hbusy : s.busy = true) (hagenda : s.agenda = []) :
    ∃ t, step s = .next t ∧ t.upc = s.upc + 1 ∧
      ((t.rst = false ∧ t.busy = true ∧ t.agenda = [] ∧ Running i t) ∨
        (t.busy = false ∧ t.done = true ∧ t.ost = .IDLE ∧ t.pins.idleSafe)) := by
  obtain ⟨u, hexec⟩ := h.keeps_freeEnvironment.exec_exists
  obtain ⟨-, -, hurst, -, -, huagenda, -⟩ := exec_outsideKept hexec
  refine ⟨observe u, ?_, by simpa using exec_upc hexec, ?_⟩
  · rw [step_unscheduled hagenda]
    exact sequencerTurn_runs hrst hbusy h.keeps_freeEnvironment.command hexec
  · obtain ⟨hubusy, hrunning⟩ | hdone := h.keeps_freeEnvironment.exec_cases hexec
    · exact .inl ⟨hurst.trans hrst, hubusy.trans hbusy, huagenda.trans hagenda, hrunning.keeps_observe⟩
    · exact .inr hdone

theorem upc_lt (h : Running i s) : s.upc < 268 :=
  h.below.trans_le (by rw [routineOf_length]; exact lengthOf_le i s.res)

/-- With nothing scheduled a running command completes: by induction on a bound of the micro-operations left. -/
theorem completes (fuel : Nat) (h : Running i s) (hrst : s.rst = false) (hbusy : s.busy = true)
    (hagenda : s.agenda = []) (hfuel : 268 ≤ s.upc + fuel) :
    ∃ n t, n + s.upc ≤ 268 ∧ runSteps n s = .next t ∧ t.upc = s.upc + n ∧ t.busy = false ∧ t.done = true ∧
      t.ost = .IDLE ∧ t.pins.idleSafe := by
  induction fuel generalizing s with
  | zero => exact absurd h.upc_lt (Nat.not_lt.mpr hfuel)
  | succ fuel ih =>
    have hlt := h.upc_lt
    obtain ⟨u, hstep, hupc, ⟨hurst, hubusy, huagenda, hrunning⟩ | hdone⟩ := h.unscheduled_step hrst hbusy hagenda
    · obtain ⟨n, t, hbound, hrun, htupc, hend⟩ := ih hrunning hurst hubusy huagenda (by omega)
      exact ⟨n + 1, t, by omega, by rw [runSteps_succ hstep, hrun], by omega, hend⟩
    · exact ⟨1, u, by omega, runSteps_succ hstep, hupc, hdone⟩

end Running

/-- Under the invariant a running command is not under reset (R108). -/
theorem Inv.rst_of_busy {s : State} (h : Inv s) (hbusy : s.busy = true) : s.rst = false := by
  by_contra hrst
  obtain ⟨-, -, -, -, -, -, -, -, -, -, hidle, -⟩ := h.in_reset (by simpa using hrst)
  rw [hbusy] at hidle
  cases hidle

/-- Settles O55: the invariant gives the running command, and `Running.completes` takes it to its end. -/
theorem everyCommandCompletes : Obligations.EveryCommandCompletes := by
  intro s hinv hbusy hagenda
  obtain ⟨i, hrunning⟩ := hinv.running hbusy
  exact hrunning.completes 268 (hinv.rst_of_busy hbusy) hbusy hagenda (Nat.le_add_left ..)

end Sys2Proof.Machine
end

/-! # The invariant and the rules over all steps

The statements of 10_state.md: what one step of the machine can do, said once (`step_cases`), the invariant it keeps,
who writes which element, and the words the host reads. -/

section
namespace Sys2Proof.Machine

open Sys2Proof.Expected

/-! ## A step that performs no micro-operation and accepts no word -/

/-- The block of `t` is that of `s`, but that a write dropped while a command runs may have set `REJ` and that `rst` may
be released; an observer that has seen the wires of `s` has seen those of `t`. -/
structure Undisturbed (s t : State) : Prop where
  block : t = { s with
    rej := t.rej, rst := t.rst, envScl := t.envScl, envSda := t.envSda, agenda := t.agenda, reads := t.reads,
    wave := t.wave, draws := t.draws }
  rej : t.rej = s.rej ∨ s.busy = true
  rst : t.rst = true → s.rst = true
  seen : s.wave.getLast? = some (wires s) → t.wave.getLast? = some (wires t)

namespace Undisturbed

section
variable {s t : State}

theorem pins (h : Undisturbed s t) : t.pins = s.pins := (congrArg State.pins h.block :)
theorem cmdr (h : Undisturbed s t) : t.cmdr = s.cmdr := (congrArg State.cmdr h.block :)
theorem sh (h : Undisturbed s t) : t.sh = s.sh := (congrArg State.sh h.block :)
theorem rxd (h : Undisturbed s t) : t.rxd = s.rxd := (congrArg State.rxd h.block :)
theorem rxv (h : Undisturbed s t) : t.rxv = s.rxv := (congrArg State.rxv h.block :)
theorem ost (h : Undisturbed s t) : t.ost = s.ost := (congrArg State.ost h.block :)
theorem upc (h : Undisturbed s t) : t.upc = s.upc := (congrArg State.upc h.block :)
theorem ackf (h : Undisturbed s t) : t.ackf = s.ackf := (congrArg State.ackf h.block :)
theorem busy (h : Undisturbed s t) : t.busy = s.busy := (congrArg State.busy h.block :)
theorem done (h : Undisturbed s t) : t.done = s.done := (congrArg State.done h.block :)
theorem res (h : Undisturbed s t) : t.res = s.res := (congrArg State.res h.block :)
theorem tr (h : Undisturbed s t) : t.tr = s.tr := (congrArg State.tr h.block :)

/-- A block at its reset values runs no command, so no write can have set `REJ`. -/
theorem atReset (h : Undisturbed s t) (hs : AtReset s) : AtReset t := by
  have hidle : s.busy = false := by obtain ⟨-, -, -, -, -, -, -, -, -, -, hidle, -⟩ := hs; exact hidle
  have hrej : t.rej = s.rej := by simpa [hidle] using h.rej
  rw [h.block]
  simpa [AtReset, hrej] using hs

theorem running {i : Instr} (h : Undisturbed s t) (hs : Running i s) : Running i t :=
  hs.congr h.cmdr h.upc h.pins h.ost h.res

end

variable (s : State) (rest : List Turn)

theorem of_agenda : Undisturbed s { s with agenda := rest } := ⟨rfl, .inl rfl, id, id⟩

theorem of_freeEnvironment : Undisturbed s (freeEnvironment s) :=
  ⟨freeEnvironment_frame s, .inl rfl, id, fun _ => observe_observed _⟩

theorem of_envSdaTurn (l : Level) : Undisturbed s (envSdaTurn l { s with agenda := rest }) :=
  ⟨rfl, .inl rfl, id, fun _ => observe_observed _⟩

theorem of_envSclTurn (l : Level) : Undisturbed s (envSclTurn l { s with agenda := rest }) :=
  ⟨rfl, .inl rfl, id, fun _ => observe_observed _⟩

theorem of_releaseResetTurn : Undisturbed s (releaseResetTurn { s with agenda := rest }) :=
  ⟨rfl, .inl rfl, nofun, id⟩

theorem of_hostReadTurn (n : Nat) : Undisturbed s (hostReadTurn n { s with agenda := rest }) := by
  unfold hostReadTurn
  split <;> exact ⟨rfl, .inl rfl, id, id⟩

theorem of_rejectBusy (h : s.busy = true) : Undisturbed s (rejectBusy { s with agenda := rest }) :=
  ⟨rfl, .inr h, id, id⟩

end Undisturbed

/-! ## What one step of the machine can do -/

/-- The ways from a state to the next: reset, acceptance of a word, a micro-operation of the running command (after the
environment's move where nothing is scheduled), or nothing done to the block. -/
inductive StepCase (s t : State) : Prop where
  | reset (rest : List Turn) (hagenda : s.agenda = .assertReset :: rest)
      (ht : t = assertResetTurn { s with agenda := rest })
  | accepted (w : Word) (rest : List Turn) (hagenda : s.agenda = .hostWrite 0 w :: rest) (hrst : s.rst = false)
      (hidle : s.busy = false) (ht : t = accept w { s with agenda := rest })
  | performed (i : Instr) (u v : State) (hturn : s.agenda = [] ∨ ∃ rest, s.agenda = .sequencer :: rest)
      (hu : Undisturbed s u) (hrst : s.rst = false) (hbusy : s.busy = true) (hdecode : decode s.cmdr = .ok i)
      (hexec : exec i u = .next v) (ht : t = observe v)
  | undisturbed (h : Undisturbed s t)

/-- The inversion lemma of the sequencer's turn, the agenda having been read or the environment having moved. -/
theorem StepCase.of_sequencerTurn {s u t : State} (hturn : s.agenda = [] ∨ ∃ rest, s.agenda = .sequencer :: rest)
    (hu : Undisturbed s u) (hrst : u.rst = s.rst) (h : sequencerTurn u = .next t) : StepCase s t := by
  obtain ⟨-, rfl⟩ | ⟨hurst, hubusy, i, v, hdecode, hexec, ht⟩ := sequencerTurn_next h
  · exact .undisturbed hu
  · exact .performed i u v hturn hu (hrst ▸ hurst) (hu.busy ▸ hubusy) (hu.cmdr ▸ hdecode) hexec ht

theorem StepCase.of_hostWriteTurn {s : State} {n : Nat} {w : Word} {rest : List Turn}
    (hagenda : s.agenda = .hostWrite n w :: rest) : StepCase s (hostWriteTurn n w { s with agenda := rest }) := by
  unfold hostWriteTurn
  split
  · exact .undisturbed (.of_agenda s rest)
  · next hrst =>
    obtain ⟨-, hw⟩ | ⟨-, hbusy, hw⟩ | ⟨rfl, hidle, hw⟩ := hostWrite_cases n w { s with agenda := rest } <;> rw [hw]
    · exact .undisturbed (.of_agenda s rest)
    · exact .undisturbed (.of_rejectBusy s rest hbusy)
    · exact .accepted w rest hagenda (by simpa using hrst) hidle rfl

/-- The inversion lemma of `step`. -/
theorem step_cases {s t : State} (h : step s = .next t) : StepCase s t := by
  cases hagenda : s.agenda with
  | nil =>
    rw [step_unscheduled hagenda] at h
    exact .of_sequencerTurn (.inl hagenda) (.of_freeEnvironment s) rfl h
  | cons a rest =>
    rw [step_scheduled hagenda] at h
    cases a with
    | sequencer => exact .of_sequencerTurn (.inr ⟨rest, hagenda⟩) (.of_agenda s rest) rfl h
    | assertReset => cases h; exact .reset rest hagenda rfl
    | hostWrite n w => cases h; exact .of_hostWriteTurn hagenda
    | hostRead n => cases h; exact .undisturbed (.of_hostReadTurn s rest n)
    | envSda l => cases h; exact .undisturbed (.of_envSdaTurn s rest l)
    | envScl l => cases h; exact .undisturbed (.of_envSclTurn s rest l)
    | releaseReset => cases h; exact .undisturbed (.of_releaseResetTurn s rest)

/-! ## What acceptance writes (R40) -/

/-- Acceptance writes the word, `UPC`, `BUSY`, `DONE`, `RES`, `RXD` and `RXV`, and nothing else. -/
theorem accept_frame (w : Word) (s : State) :
    accept w s =
      { s with
        cmdr := w, upc := 0, rxv := false, rxd := 0x00#8, busy := (accept w s).busy, done := (accept w s).done,
        res := (accept w s).res } := by
  unfold accept
  split <;> rfl

@[simp] theorem accept_cmdr (w : Word) (s : State) : (accept w s).cmdr = w := by rw [accept_frame]
@[simp] theorem accept_upc (w : Word) (s : State) : (accept w s).upc = 0 := by rw [accept_frame]
@[simp] theorem accept_rxv (w : Word) (s : State) : (accept w s).rxv = false := by rw [accept_frame]
@[simp] theorem accept_rxd (w : Word) (s : State) : (accept w s).rxd = 0x00#8 := by rw [accept_frame]
@[simp] theorem accept_ost (w : Word) (s : State) : (accept w s).ost = s.ost := by rw [accept_frame]
@[simp] theorem accept_ackf (w : Word) (s : State) : (accept w s).ackf = s.ackf := by rw [accept_frame]
@[simp] theorem accept_tr (w : Word) (s : State) : (accept w s).tr = s.tr := by rw [accept_frame]
@[simp] theorem accept_rst (w : Word) (s : State) : (accept w s).rst = s.rst := by rw [accept_frame]
@[simp] theorem accept_wave (w : Word) (s : State) : (accept w s).wave = s.wave := by rw [accept_frame]
@[simp] theorem accept_pins (w : Word) (s : State) : (accept w s).pins = s.pins := by rw [accept_frame]; rfl
@[simp] theorem accept_wires (w : Word) (s : State) : wires (accept w s) = wires s := by rw [accept_frame]; rfl

/-- A legal word starts its command; a reserved one completes at once (R95). -/
theorem accept_outcome (w : Word) {s : State} (hidle : s.busy = false) :
    ((∃ i, decode w = .ok i) ∧ (accept w s).busy = true ∧ (accept w s).done = false ∧ (accept w s).res = .OK) ∨
    ((accept w s).busy = false ∧ (accept w s).done = true ∧ (accept w s).res = .ILLEGAL) := by
  cases hlegal : legalOpcode (fieldOpc w) with
  | true => exact .inl ⟨decode_ok_of_legal hlegal, by simp [accept_legal hlegal]⟩
  | false => exact .inr (by simp [accept_illegal hlegal, hidle])

/-! ## What a micro-operation makes of the acknowledge and of the received byte -/

/-- One attached write: `ACKF` and `RES` stay, or a sample sets `ACKF` from its level, and `RES` only at a high one. -/
theorem applyEffect_ack (v : Level) (s : State) (e : Effect) :
    ((applyEffect v s e).ackf = s.ackf ∧ (applyEffect v s e).res = s.res) ∨
    ((∃ c, e = .sampleAck c) ∧ (applyEffect v s e).ackf = ackOfLevel v ∧
      ((applyEffect v s e).res = s.res ∨ v = .H)) := by
  cases e with
  | sampleAck c =>
    cases c with
    | none => exact .inr ⟨⟨_, rfl⟩, rfl, .inl rfl⟩
    | some c =>
      cases v with
      | L => exact .inr ⟨⟨_, rfl⟩, rfl, .inl rfl⟩
      | H => exact .inr ⟨⟨_, rfl⟩, rfl, .inr rfl⟩
  | _ => exact .inl ⟨rfl, rfl⟩

theorem applyEffects_ack (v : Level) (es : List Effect) (s : State) :
    ((es.foldl (applyEffect v) s).ackf = s.ackf ∧ (es.foldl (applyEffect v) s).res = s.res) ∨
    ((∃ c, Effect.sampleAck c ∈ es) ∧ (es.foldl (applyEffect v) s).ackf = ackOfLevel v ∧
      ((es.foldl (applyEffect v) s).res = s.res ∨ v = .H)) := by
  induction es generalizing s with
  | nil => exact .inl ⟨rfl, rfl⟩
  | cons e es ih =>
    rw [List.foldl_cons]
    obtain ⟨hack, hres⟩ | ⟨⟨c, hc⟩, hack, hres⟩ := ih (applyEffect v s e)
    · rw [hack, hres]
      refine (applyEffect_ack v s e).imp_right ?_
      rintro ⟨⟨c, rfl⟩, h⟩
      exact ⟨⟨c, List.mem_cons_self⟩, h⟩
    · refine .inr ⟨⟨c, List.mem_cons_of_mem _ hc⟩, hack, ?_⟩
      obtain ⟨-, he⟩ | ⟨-, -, he⟩ := applyEffect_ack v s e
      · rwa [he] at hres
      · exact he.elim (fun he => by rwa [he] at hres) .inr

/-- R22, R27: `RXD` and `RXV` stay where no byte is presented. -/
theorem applyEffects_no_byte {v : Level} {es : List Effect} (s : State) (h : Effect.presentByte ∉ es) :
    (es.foldl (applyEffect v) s).rxd = s.rxd ∧ (es.foldl (applyEffect v) s).rxv = s.rxv := by
  induction es generalizing s with
  | nil => exact ⟨rfl, rfl⟩
  | cons e es ih =>
    obtain ⟨hrxd, hrxv⟩ := ih (applyEffect v s e) (List.not_mem_of_not_mem_cons h)
    rw [List.foldl_cons, hrxd, hrxv]
    cases e with
    | sampleAck c => cases c <;> cases v <;> exact ⟨rfl, rfl⟩
    | presentByte => exact absurd List.mem_cons_self h
    | _ => exact ⟨rfl, rfl⟩

/-- R22: where no write of the step touches `SH`, a byte presented is `SH` as it was before the step. -/
theorem applyEffects_byte {v : Level} {es : List Effect} (s : State) (hclear : Effect.clearShift ∉ es)
    (hshift : Effect.shiftSample ∉ es) :
    ((es.foldl (applyEffect v) s).rxd = s.rxd ∧ (es.foldl (applyEffect v) s).rxv = s.rxv) ∨
    ((es.foldl (applyEffect v) s).rxd = s.sh ∧ (es.foldl (applyEffect v) s).rxv = true) := by
  induction es generalizing s with
  | nil => exact .inl ⟨rfl, rfl⟩
  | cons e es ih =>
    rw [List.foldl_cons]
    have ih := ih (applyEffect v s e) (List.not_mem_of_not_mem_cons hclear) (List.not_mem_of_not_mem_cons hshift)
    cases e with
    | clearShift => exact absurd List.mem_cons_self hclear
    | shiftSample => exact absurd List.mem_cons_self hshift
    | presentByte => exact .inr (ih.elim id id)
    | sampleAck c => cases c <;> cases v <;> exact ih
    | enter o => exact ih

/-! ## What one `exec` makes of them -/

/-- Every acknowledge sample of a routine is attached to a read (R75). -/
def samplesAtReads (r : Routine) : Bool :=
  r.all fun m => decide (m.op = .readDataLine) || m.effects.all fun e => match e with | .sampleAck _ => false | _ => true

theorem samplesAtReads_append (r r' : Routine) :
    samplesAtReads (r ++ r') = (samplesAtReads r && samplesAtReads r') := List.all_append

theorem samplesAtReads_enter (o : OrchState) (r : Routine) :
    samplesAtReads (withLast (.enter o) r) = samplesAtReads r := by
  induction r with
  | nil => rfl
  | cons m r ih =>
    cases r with
    | nil => simp [samplesAtReads, withLast]
    | cons m' r => exact congrArg (_ && ·) ih

theorem startRoutine_samplesAtReads : samplesAtReads startRoutine = true := rfl
theorem stopRoutine_samplesAtReads : samplesAtReads stopRoutine = true := rfl
theorem transmitByte_samplesAtReads (c : Option ResultCode) (x : Byte) : samplesAtReads (transmitByte c x) = true := rfl
theorem receiveByte_samplesAtReads (p : AckFlag) : samplesAtReads (receiveByte p) = true := rfl

theorem routineOf_samplesAtReads (i : Instr) (res : ResultCode) : samplesAtReads (routineOf i res) = true := by
  cases i with
  | start => rfl
  | stop => rfl
  | txbyte x => rfl
  | rxbyte p => rfl
  | addr sa dir => rfl
  | wrreg sa ra d =>
    cases res <;>
      simp [routineOf, wrregRoutine, openingToRegister, opening, closing, addressByte, samplesAtReads_append,
        samplesAtReads_enter, startRoutine_samplesAtReads, stopRoutine_samplesAtReads, transmitByte_samplesAtReads]
  | rdreg sa ra =>
    cases res <;>
      simp [routineOf, rdregRoutine, openingToReaddress, openingToRegister, opening, closing, addressByte,
        samplesAtReads_append, samplesAtReads_enter, startRoutine_samplesAtReads, stopRoutine_samplesAtReads,
        transmitByte_samplesAtReads, receiveByte_samplesAtReads]

theorem sample_reads {i : Instr} {res : ResultCode} {k : Nat} {m : MicroStep} {c : Option ResultCode}
    (hm : (routineOf i res)[k]? = some m) (hc : Effect.sampleAck c ∈ m.effects) : m.op = .readDataLine := by
  have h := List.all_eq_true.mp (routineOf_samplesAtReads i res) m (List.mem_of_getElem? hm)
  by_contra hop
  simp only [hop, decide_false, Bool.false_or] at h
  cases List.all_eq_true.mp h _ hc

/-- R75, R82, R85, R86: the acknowledge samples of the commands. -/
theorem sample_offset {i : Instr} {res : ResultCode} {k : Nat} {c : Option ResultCode}
    (h : (k, Effect.sampleAck c) ∈ effectsOf i res) :
    (∃ x, Sends i x ∧ k = 53) ∨ (∃ sa ra d, i = .wrreg sa ra d ∧ k ∈ [61, 118, 175]) ∨
      (∃ sa ra, i = .rdreg sa ra ∧ k ∈ [61, 118, 183]) := by
  cases i with
  | start => cases h
  | stop => cases h
  | txbyte x => exact .inl ⟨x, .inl rfl, congrArg Prod.fst (List.mem_singleton.mp h)⟩
  | rxbyte p => simp [effectsOf, receiveByte_effects] at h
  | addr sa dir => exact .inl ⟨_, .inr ⟨sa, dir, rfl, rfl⟩, congrArg Prod.fst (List.mem_singleton.mp h)⟩
  | wrreg sa ra d => exact .inr (.inl ⟨sa, ra, d, rfl, by cases res <;> simp [effectsOf] at h ⊢ <;> omega⟩)
  | rdreg sa ra => exact .inr (.inr ⟨sa, ra, rfl, by cases res <;> simp [effectsOf] at h ⊢ <;> omega⟩)

/-- R77: the step that presents a byte leaves `SH` alone. -/
theorem presentByte_keeps_shift {i : Instr} {res : ResultCode} {k : Nat} (h : (k, Effect.presentByte) ∈ effectsOf i res) :
    (k, Effect.clearShift) ∉ effectsOf i res ∧ (k, Effect.shiftSample) ∉ effectsOf i res := by
  cases i with
  | rxbyte p => simp [effectsOf, receiveByte_effects] at h ⊢; omega
  | rdreg sa ra => cases res <;> simp [effectsOf] at h ⊢ <;> omega
  | wrreg sa ra d => cases res <;> simp [effectsOf] at h
  | _ => simp [effectsOf] at h

theorem stepped_ack (m : MicroStep) (s : State) :
    ((stepped m s).ackf = s.ackf ∧ (stepped m s).res = s.res) ∨
    ((∃ c, Effect.sampleAck c ∈ m.effects) ∧ (stepped m s).ackf = ackOfLevel (sdaIn s) ∧
      ((stepped m s).res = s.res ∨ sdaIn s = .H)) := by
  have hop := microOp_eq (sdaIn s) m.op s
  simpa [stepped, hop] using applyEffects_ack (sdaIn s) m.effects (microOp (sdaIn s) m.op s)

/-- R77: a micro-operation of a command presents `SH` as it was, or leaves `RXD` and `RXV`. -/
theorem stepped_byte {i : Instr} {res : ResultCode} {k : Nat} {m : MicroStep} (s : State)
    (hm : (routineOf i res)[k]? = some m) :
    ((stepped m s).rxd = s.rxd ∧ (stepped m s).rxv = s.rxv) ∨
    ((stepped m s).rxd = s.sh ∧ (stepped m s).rxv = true) := by
  have hop := microOp_eq (sdaIn s) m.op s
  by_cases hp : Effect.presentByte ∈ m.effects
  · obtain ⟨hclear, hshift⟩ := presentByte_keeps_shift (effect_listed hm hp)
    simpa [stepped, hop] using applyEffects_byte (v := sdaIn s) (microOp (sdaIn s) m.op s)
      (fun he => hclear (effect_listed hm he)) (fun he => hshift (effect_listed hm he))
  · left
    simpa [stepped, hop] using applyEffects_no_byte (v := sdaIn s) (microOp (sdaIn s) m.op s) hp

/-- R26: `ACKF` and `RES` stay in a step of a command, or it is an acknowledge sample. -/
theorem exec_ack {i : Instr} {s t : State} (h : exec i s = .next t) :
    (t.ackf = s.ackf ∧ t.res = s.res) ∨
    ∃ c, (s.upc, Effect.sampleAck c) ∈ effectsOf i s.res ∧ t.tr = s.tr ++ [.RD (sdaIn s)] ∧
      t.ackf = ackOfLevel (sdaIn s) ∧ (t.res = s.res ∨ sdaIn s = .H) := by
  obtain ⟨m, hm, -, rfl⟩ := exec_next.mp h
  obtain hkept | ⟨⟨c, hc⟩, hsample⟩ := stepped_ack m s
  · left; split <;> exact hkept
  · refine .inr ⟨c, effect_listed hm hc, ?_⟩
    have htr : (stepped m s).tr = s.tr ++ [.RD (sdaIn s)] := by rw [stepped_tr, sample_reads hm hc]; rfl
    split <;> exact ⟨htr, hsample⟩

/-- R22, R27: `RXD` and `RXV` stay in a step of a command, or it presents `SH`. -/
theorem exec_byte {i : Instr} {s t : State} (h : exec i s = .next t) :
    (t.rxd = s.rxd ∧ t.rxv = s.rxv) ∨ (t.rxd = s.sh ∧ t.rxv = true) := by
  obtain ⟨m, hm, -, rfl⟩ := exec_next.mp h
  have hbyte := stepped_byte s hm
  split <;> exact hbyte

theorem exec_tr {i : Instr} {s t : State} (h : exec i s = .next t) : ∃ e, t.tr = s.tr ++ [e] := by
  obtain ⟨m, -, -, rfl⟩ := exec_next.mp h
  split <;> exact ⟨_, stepped_tr m s⟩

/-! ## Every step keeps the invariant (R37) -/

namespace Running

variable {i : Instr} {s t : State}

/-- R85, R86: past the sample that raised its code a path holds no acknowledge sample, so at a sample `RES` is OK. -/
theorem res_ok_of_sample {c : Option ResultCode} (h : Running i s)
    (hc : (s.upc, Effect.sampleAck c) ∈ effectsOf i s.res) : s.res = .OK := by
  obtain hok | ⟨m, hm, hraised⟩ := h.code
  · exact hok
  · obtain ⟨k, hk⟩ := List.mem_iff_getElem?.mp hm
    have hbefore : k < s.upc := by
      by_contra hge
      rw [List.getElem?_take_eq_none (Nat.le_of_not_lt hge)] at hk
      cases hk
    rw [List.getElem?_take_of_lt hbefore] at hk
    have hcode := effect_listed hk hraised
    generalize s.res = res at hc hcode ⊢
    cases i <;> cases res <;> simp [effectsOf, receiveByte_effects] at hc hcode <;> omega

/-- R92: a code other than OK, held after a micro-operation, goes with `ACKF = NACK`. -/
theorem exec_nack_flag (h : Running i s) (he : exec i s = .next t)
    (hs : s.res ≠ .OK → s.res ≠ .ILLEGAL → s.ackf = .NACK) : t.res ≠ .OK → t.res ≠ .ILLEGAL → t.ackf = .NACK := by
  intro hok hlegal
  obtain ⟨hack, hres⟩ | ⟨c, hc, -, hack, hres | hhigh⟩ := exec_ack he
  · rw [hack]
    exact hs (hres ▸ hok) (hres ▸ hlegal)
  · exact absurd (hres.trans (h.res_ok_of_sample hc)) hok
  · rw [hack, hhigh]; rfl

/-- One micro-operation of a running command: while `BUSY` stays it goes on, and where `BUSY` falls it is complete. -/
theorem exec_outcome (h : Running i s) (hbusy : s.busy = true) (he : exec i s = .next t) :
    (t.busy = true → Running i t ∧ t.done = s.done) ∧
      (t.busy = false → t.done = true ∧ t.ost = .IDLE ∧ t.pins.idleSafe) := by
  obtain ⟨hlast, hmiddle⟩ := exec_completesAt he
  obtain ⟨hgoes, hrunning⟩ | ⟨hends, hcomplete⟩ := h.exec_cases he
  · rw [hbusy] at hgoes
    have hn : s.upc + 1 ≠ (routineOf i s.res).length := fun hl => by
      obtain ⟨hends, -⟩ := hlast hl
      cases hends.symm.trans hgoes
    exact ⟨fun _ => ⟨hrunning, (hmiddle hn).2⟩, fun hends => absurd (hends.symm.trans hgoes) nofun⟩
  · exact ⟨fun hgoes => absurd (hends.symm.trans hgoes) nofun, fun _ => hcomplete⟩

end Running

/-- R37 (d): a step that leaves `RXV` at 0 leaves `RXD` as it was. -/
theorem exec_no_byte {i : Instr} {s t : State} (he : exec i s = .next t) (hs : s.rxv = false → s.rxd = 0x00#8) :
    t.rxv = false → t.rxd = 0x00#8 := by
  intro hrxv
  obtain ⟨hrxd, hkept⟩ | ⟨-, hset⟩ := exec_byte he
  · rw [hrxd]
    exact hs (hkept.symm.trans hrxv)
  · cases hset.symm.trans hrxv

namespace Inv

variable {s t : State}

/-- The running command is the one in `CMDR`. -/
theorem running_of_decode {i : Instr} (h : Inv s) (hbusy : s.busy = true) (hdecode : decode s.cmdr = .ok i) :
    Running i s := by
  obtain ⟨j, hj⟩ := h.running hbusy
  obtain rfl : i = j := Except.ok.inj (hdecode.symm.trans hj.command)
  exact hj

theorem keeps_undisturbed (h : Inv s) (hu : Undisturbed s t) : Inv t where
  running hbusy := (h.running (hu.busy ▸ hbusy)).imp fun _ => hu.running
  not_both hbusy := by rw [hu.done]; exact h.not_both (hu.busy ▸ hbusy)
  idle_pins hidle := by rw [hu.pins]; exact h.idle_pins (hu.busy ▸ hidle)
  idle_orch hidle := by rw [hu.ost]; exact h.idle_orch (hu.busy ▸ hidle)
  no_byte hrxv := by rw [hu.rxd]; exact h.no_byte (hu.rxv ▸ hrxv)
  nack_flag := by rw [hu.res, hu.ackf]; exact h.nack_flag
  upc_bound := by rw [hu.upc]; exact h.upc_bound
  fresh hidle hdone := hu.atReset (h.fresh (hu.busy ▸ hidle) (hu.done ▸ hdone))
  in_reset hrst := hu.atReset (h.in_reset (hu.rst hrst))
  observed := hu.seen h.observed

/-- R108, R109: from every state. -/
theorem of_assertResetTurn (s : State) : Inv (assertResetTurn s) where
  running := nofun
  not_both := nofun
  idle_pins _ := .inr (by simp [State.pins, assertResetTurn, State.reset])
  idle_orch _ := rfl
  no_byte _ := rfl
  nack_flag hok := absurd rfl hok
  upc_bound := Nat.zero_le _
  fresh _ _ := by simp [AtReset, assertResetTurn, State.reset]
  in_reset _ := by simp [AtReset, assertResetTurn, State.reset]
  observed := rfl

/-- R40: an accepted word begins its command at micro-operation 0, or is complete. -/
theorem keeps_accept (h : Inv s) (w : Word) (hidle : s.busy = false) (hrst : s.rst = false) : Inv (accept w s) where
  running hbusy := by
    obtain ⟨⟨i, hi⟩, -, -, hres⟩ | ⟨hdone, -⟩ := accept_outcome w hidle
    · exact ⟨i, by rwa [accept_cmdr], by rw [routineOf_length, accept_upc]; exact lengthOf_pos _ _,
        ⟨s.pins, h.idle_pins hidle, by simp⟩, by simp [orchAfter, h.idle_orch hidle], .inl hres⟩
    · rw [hdone] at hbusy; cases hbusy
  not_both hbusy := by
    obtain ⟨-, -, hdone, -⟩ | ⟨hend, -⟩ := accept_outcome w hidle
    · exact hdone
    · rw [hend] at hbusy; cases hbusy
  idle_pins _ := by rw [accept_pins]; exact h.idle_pins hidle
  idle_orch _ := by rw [accept_ost]; exact h.idle_orch hidle
  no_byte _ := accept_rxd w s
  nack_flag hok hlegal := by
    obtain ⟨-, -, -, hres⟩ | ⟨-, -, hres⟩ := accept_outcome w hidle
    · exact absurd hres hok
    · exact absurd hres hlegal
  upc_bound := by simp
  fresh hend hdone := by
    obtain ⟨-, hbusy, -⟩ | ⟨-, hset, -⟩ := accept_outcome w hidle
    · rw [hbusy] at hend; cases hend
    · rw [hset] at hdone; cases hdone
  in_reset hreset := by rw [accept_rst, hrst] at hreset; cases hreset
  observed := by rw [accept_wave, accept_wires]; exact h.observed

/-- One micro-operation of the running command: it goes on, or it is complete (`Running.exec_outcome`). -/
theorem keeps_exec {i : Instr} (h : Inv s) (hbusy : s.busy = true) (hdecode : decode s.cmdr = .ok i)
    (he : exec i s = .next t) : Inv (observe t) := by
  have hrunning := h.running_of_decode hbusy hdecode
  obtain ⟨hgoes, hends⟩ := hrunning.exec_outcome hbusy he
  obtain ⟨-, -, hrst, -⟩ := exec_outsideKept he
  have hoff : (observe t).rst = false := hrst.trans (h.rst_of_busy hbusy)
  exact {
    running := fun hb => ⟨i, (hgoes hb).1.keeps_observe⟩
    not_both := fun hb => (hgoes hb).2.trans (h.not_both hbusy)
    idle_pins := fun hb => (hends hb).2.2
    idle_orch := fun hb => (hends hb).2.1
    no_byte := (exec_no_byte he h.no_byte :)
    nack_flag := (hrunning.exec_nack_flag he h.nack_flag :)
    upc_bound := (exec_upc he).trans_le hrunning.upc_lt
    fresh := fun hb hd => absurd ((hends hb).1.symm.trans hd) nofun
    in_reset := fun hr => absurd (hoff.symm.trans hr) nofun
    observed := observe_observed t }

end Inv

/-- Settles O53: by `step_cases`, each case with its own lemma under `Inv`. -/
theorem stepKeepsInvariant : Obligations.StepKeepsInvariant := by
  intro s t hinv hstep
  cases step_cases hstep with
  | reset rest hagenda ht => rw [ht]; exact Inv.of_assertResetTurn _
  | accepted w rest hagenda hrst hidle ht =>
    rw [ht]
    exact (hinv.keeps_undisturbed (.of_agenda s rest)).keeps_accept w hidle hrst
  | performed i u v hturn hu hrst hbusy hdecode hexec ht =>
    rw [ht]
    exact (hinv.keeps_undisturbed hu).keeps_exec (hu.busy.trans hbusy) (hu.cmdr ▸ hdecode) hexec
  | undisturbed hu => exact hinv.keeps_undisturbed hu

/-! ## No step of a state that meets the invariant stops (R121) -/

/-- The sequencer has nothing to do, or a command to go on with (`Running.exec_exists`). -/
theorem Inv.sequencerTurn_exists {s : State} (h : Inv s) : ∃ t, sequencerTurn s = .next t := by
  cases hrst : s.rst with
  | true => exact ⟨s, sequencerTurn_inReset hrst⟩
  | false =>
    cases hbusy : s.busy with
    | false => exact ⟨s, sequencerTurn_idle hbusy⟩
    | true =>
      obtain ⟨i, hrunning⟩ := h.running hbusy
      obtain ⟨t, hexec⟩ := hrunning.exec_exists
      exact ⟨observe t, sequencerTurn_runs hrst hbusy hrunning.command hexec⟩

/-- Settles O54: only the sequencer's turn can stop, and `Inv.sequencerTurn_exists` says that it does not. -/
theorem invariantStateNeverStops : Obligations.InvariantStateNeverStops := by
  intro s hinv
  cases hagenda : s.agenda with
  | nil =>
    rw [step_unscheduled hagenda]
    exact (hinv.keeps_undisturbed (.of_freeEnvironment s)).sequencerTurn_exists
  | cons a rest =>
    rw [step_scheduled hagenda]
    cases a with
    | sequencer => exact (hinv.keeps_undisturbed (.of_agenda s rest)).sequencerTurn_exists
    | _ => exact ⟨_, rfl⟩

/-! ## The orchestrator state of a running command (R23) -/

/-- The orchestrator state after those of the writes `l` whose offsets are below `k`. -/
def orchBelow (k : Nat) (l : List (Nat × Effect)) (o : OrchState) : OrchState :=
  l.foldl (fun q w => if w.1 < k then orchStep q w.2 else q) o

theorem orchBelow_effectsFrom_cons (k n : Nat) (m : MicroStep) (r : Routine) (o : OrchState) :
    orchBelow k (effectsFrom n (m :: r)) o =
      orchBelow k (effectsFrom (n + 1) r) (if n < k then m.effects.foldl orchStep o else o) := by
  rw [effectsFrom, orchBelow, List.foldl_append, List.foldl_map]
  split <;> simp [orchBelow, *]

theorem orchBelow_effectsFrom_of_le {k n : Nat} (h : k ≤ n) (r : Routine) (o : OrchState) :
    orchBelow k (effectsFrom n r) o = o := by
  induction r generalizing n with
  | nil => rfl
  | cons m r ih => rw [orchBelow_effectsFrom_cons, if_neg (Nat.not_lt.mpr h), ih (Nat.le_succ_of_le h)]

/-- The first `k` micro-operations of a routine make the writes at the offsets below `k`. -/
theorem orchAfter_take (r : Routine) (n k : Nat) (o : OrchState) :
    orchAfter (r.take k) o = orchBelow (n + k) (effectsFrom n r) o := by
  induction r generalizing n k o with
  | nil => rw [List.take_nil]; rfl
  | cons m r ih =>
    cases k with
    | zero => exact (orchBelow_effectsFrom_of_le (Nat.le_refl n) (m :: r) o).symm
    | succ k =>
      rw [orchBelow_effectsFrom_cons, if_pos (by omega), show n + (k + 1) = n + 1 + k by omega, ← ih]
      rfl

/-- R23, R85, R86: the orchestrator state of a running command. -/
theorem Running.ost_eq {i : Instr} {s : State} (h : Running i s) :
    s.ost = orchBelow s.upc (effectsOf i s.res) .IDLE := by
  rw [h.orch, orchAfter_take _ 0, routineOf_effects, Nat.zero_add]

/-- R85: the stages of WRREG. -/
theorem Running.wrreg_ost {sa ra d : Byte} {s : State} (h : Running (.wrreg sa ra d) s) :
    s.ost =
      if s.upc < 8 then .IDLE
      else if s.upc < 65 ∨ s.res = .NACK_ADDRESS then .STARTED
      else if s.upc < 179 then .ADDRESSED
      else .DATA_SENT := by
  have hbelow := h.below
  rw [routineOf_length] at hbelow
  rw [h.ost_eq]
  generalize s.res = res at hbelow ⊢
  cases res <;> simp [effectsOf, orchBelow, orchStep, lengthOf] at hbelow ⊢ <;> grind

/-- R86: the stages of RDREG. -/
theorem Running.rdreg_ost {sa ra : Byte} {s : State} (h : Running (.rdreg sa ra) s) :
    s.ost =
      if s.upc < 8 then .IDLE
      else if s.upc < 65 ∨ s.res = .NACK_ADDRESS then .STARTED
      else if s.upc < 130 ∨ s.res = .NACK_REGISTER then .ADDRESSED
      else if s.upc < 187 ∨ s.res = .NACK_READDRESS then .RESTARTED
      else if s.upc < 260 then .READDRESSED
      else .DATA_RECEIVED := by
  have hbelow := h.below
  rw [routineOf_length] at hbelow
  rw [h.ost_eq]
  generalize s.res = res at hbelow ⊢
  cases res <;> simp [effectsOf, orchBelow, orchStep, lengthOf] at hbelow ⊢ <;> grind

/-- R23: a primitive command enters no orchestrator state. -/
theorem Running.primitive_ost {i : Instr} {s : State} (h : Running i s) (hw : ∀ sa ra d, i ≠ .wrreg sa ra d)
    (hr : ∀ sa ra, i ≠ .rdreg sa ra) : s.ost = .IDLE := by
  rw [h.ost_eq]
  cases i with
  | wrreg sa ra d => exact absurd rfl (hw sa ra d)
  | rdreg sa ra => exact absurd rfl (hr sa ra)
  | _ => simp [effectsOf, receiveByte_effects, orchBelow, orchStep]

/-- Settles O27: the invariant's account of `OST`, read off the offsets at which the command enters its stages. -/
theorem orchestratorStateFollowsStages : Obligations.OrchestratorStateFollowsStages := by
  intro s hinv hbusy
  refine ⟨?_, fun sa ra d hdecode => (hinv.running_of_decode hbusy hdecode).wrreg_ost,
    fun sa ra hdecode => (hinv.running_of_decode hbusy hdecode).rdreg_ost,
    fun i hdecode hw hr => (hinv.running_of_decode hbusy hdecode).primitive_ost hw hr⟩
  obtain ⟨i, hrunning⟩ := hinv.running hbusy
  cases i with
  | wrreg sa ra d => rw [hrunning.wrreg_ost]; split_ifs <;> simp
  | rdreg sa ra => rw [hrunning.rdreg_ost]; split_ifs <;> simp
  | _ => rw [hrunning.primitive_ost nofun nofun]; simp

/-! ## Who writes what (R19, R24 to R26, R33) -/

/-- Settles O42: by `step_cases`; a micro-operation leaves the word and counts one. -/
theorem commandAndIndexWrites : Obligations.CommandAndIndexWrites := by
  intro s t hstep
  cases step_cases hstep with
  | reset rest hagenda ht => exact ⟨fun _ => .inl ⟨rest, hagenda⟩, fun _ => .inl ⟨rest, hagenda⟩⟩
  | accepted w rest hagenda hrst hidle ht =>
    have hcmdr : t.cmdr = w := by rw [ht, accept_cmdr]
    have hupc : t.upc = 0 := by rw [ht, accept_upc]
    exact ⟨fun _ => .inr ⟨w, rest, hagenda, hidle, hrst, hcmdr, hupc⟩,
      fun _ => .inr (.inl ⟨w, rest, hagenda, hidle, hrst, hupc⟩)⟩
  | performed i u v hturn hu hrst hbusy hdecode hexec ht =>
    have hcmdr : t.cmdr = s.cmdr := by rw [ht, observe_cmdr, (exec_outsideKept hexec).1, hu.cmdr]
    have hupc : t.upc = s.upc + 1 := by rw [ht, observe_upc, exec_upc hexec, hu.upc]
    exact ⟨fun hne => absurd hcmdr hne, fun _ => .inr (.inr ⟨hbusy, hrst, hupc⟩)⟩
  | undisturbed hu => exact ⟨fun hne => absurd hu.cmdr hne, fun hne => absurd hu.upc hne⟩

/-- Settles O43: by `step_cases`; acceptance and the undisturbed steps leave the pins. -/
theorem pinsWrittenBySequencerOrReset : Obligations.PinsWrittenBySequencerOrReset := by
  intro s t hstep hne
  cases step_cases hstep with
  | reset rest hagenda ht => exact .inl ⟨rest, hagenda⟩
  | accepted w rest hagenda hrst hidle ht => rw [ht, accept_pins] at hne; exact absurd rfl hne
  | performed i u v hturn hu hrst hbusy hdecode hexec ht => exact .inr ⟨hbusy, hrst, hturn⟩
  | undisturbed hu => exact absurd hu.pins hne

theorem ackOf_eq (l : Level) : ackOf l = ackOfLevel l := by cases l <;> rfl

/-- Settles O44: by `step_cases`; a micro-operation that changes `ACKF` is an acknowledge sample (`exec_ack`). -/
theorem ackfChangesOnlyAtSamples : Obligations.AckfChangesOnlyAtSamples := by
  intro s t hstep hne
  cases step_cases hstep with
  | reset rest hagenda ht => exact .inl ⟨rest, hagenda⟩
  | accepted w rest hagenda hrst hidle ht => rw [ht, accept_ackf] at hne; exact absurd rfl hne
  | performed i u v hturn hu hrst hbusy hdecode hexec ht =>
    rw [ht, observe_ackf] at hne ⊢
    rw [observe_tr]
    obtain ⟨hkept, -⟩ | ⟨c, hc, htr, hack, -⟩ := exec_ack hexec
    · exact absurd (hkept.trans hu.ackf) hne
    · rw [hu.tr] at htr
      rw [hu.upc] at hc
      exact .inr ⟨i, sdaIn u, hdecode, htr, by rw [hack, ackOf_eq], sample_offset hc⟩
  | undisturbed hu => exact absurd hu.ackf hne

/-- Settles O46: by `step_cases`; one micro-operation appends one event and counts one. -/
theorem traceGrowsByOneEvent : Obligations.TraceGrowsByOneEvent := by
  intro s t hstep
  cases step_cases hstep with
  | reset rest hagenda ht => exact .inl ⟨rest, hagenda, by rw [ht]; rfl⟩
  | accepted w rest hagenda hrst hidle ht =>
    refine .inr (.inl ⟨by rw [ht, accept_tr], by rw [ht, accept_pins]; rfl, .inr ⟨w, rest, hagenda, hidle, hrst, ?_⟩⟩)
    rw [ht, accept_upc]
  | performed i u v hturn hu hrst hbusy hdecode hexec ht =>
    refine .inr (.inr ⟨hbusy, hrst, by rw [ht, observe_upc, exec_upc hexec, hu.upc], ?_⟩)
    rw [ht, observe_tr, ← hu.tr]
    exact exec_tr hexec
  | undisturbed hu => exact .inr (.inl ⟨hu.tr, hu.pins, .inl hu.upc⟩)

/-! ## The words the host reads (R31, R32, R36) -/

/-- R31: the one-bit fields of STATUS. -/
theorem statusWord_bits (s : State) :
    (statusWord s).getLsbD 0 = s.busy ∧ (statusWord s).getLsbD 1 = s.done ∧
    (statusWord s).getLsbD 2 = s.ackf.toBit ∧ (statusWord s).getLsbD 3 = s.rxv ∧
    (statusWord s).getLsbD 7 = s.rej := by
  simp only [statusWord, BitVec.getLsbD_append]
  simp

theorem statusWord_res (s : State) : (statusWord s).extractLsb' 4 3 = s.res.code := by
  simp only [statusWord, BitVec.extractLsb'_append_eq_ite]
  simp

theorem statusWord_ost (s : State) : (statusWord s).extractLsb' 8 4 = s.ost.code := by
  simp only [statusWord, BitVec.extractLsb'_append_eq_ite]
  simp

theorem statusWord_zero (s : State) : (statusWord s).extractLsb' 12 20 = 0#20 := by
  simp only [statusWord, BitVec.extractLsb'_append_eq_ite]
  simp

/-- Settles O33: field by field, each from its lemma on `statusWord`. -/
theorem statusLayout : Obligations.StatusLayout := by
  refine ⟨fun s => ?_, by decide, fun w s => rfl, fun s hrst => ?_⟩
  · obtain ⟨hbusy, hdone, hackf, hrxv, hrej⟩ := statusWord_bits s
    refine ⟨hbusy, hdone, ?_, hrxv, ?_, hrej, ?_, statusWord_zero s⟩
    · rw [hostRead_status, hackf]; cases s.ackf <;> simp [AckFlag.toBit]
    · rw [hostRead_status, statusWord_res]; cases s.res <;> rfl
    · rw [hostRead_status, statusWord_ost]; cases s.ost <;> rfl
  · exact ⟨s.reads ++ [(1, hostRead 1 s)], by simp [turn, hostReadTurn, hrst]⟩

/-- Settles O35: the fields of `State.reset`; both pads released leave the wires to the environment. -/
theorem resetValues : Obligations.ResetValues := by
  refine ⟨by simp [AtReset, State.reset], ?_, ?_, ?_, ?_, ?_, ?_, ?_, ?_, fun e f => rfl⟩ <;> decide

theorem rxdataWord_fields (s : State) :
    (rxdataWord s).extractLsb' 0 8 = s.rxd ∧ (rxdataWord s).extractLsb' 8 24 = 0#24 :=
  ⟨BitVec.extractLsb'_append_eq_right, BitVec.extractLsb'_append_eq_left⟩

/-- Settles O57: the word's fields, the invariant's `no_byte`, and by `step_cases` that only `exec_byte` sets `RXV`. -/
theorem rxdataZeroUntilValid : Obligations.RxdataZeroUntilValid := by
  refine ⟨rxdataWord_fields, fun s hinv hrxv => ?_, fun s t hstep hs ht => ?_, fun w s hidle => ?_⟩
  · obtain ⟨-, -, -, hbit, -⟩ := statusWord_bits s
    rw [hostRead_rxdata, rxdataWord, hinv.no_byte (hbit.symm.trans hrxv)]
    rfl
  · cases step_cases hstep with
    | reset rest hagenda he => rw [he] at ht; cases ht
    | accepted w rest hagenda hrst hidle he => rw [he, accept_rxv] at ht; cases ht
    | performed i u v hturn hu hrst hbusy hdecode hexec he =>
      rw [he, observe_rxv] at ht
      rw [he, observe_rxd, ← hu.sh]
      obtain ⟨-, hkept⟩ | ⟨hrxd, -⟩ := exec_byte hexec
      · rw [hkept, hu.rxv, hs] at ht; cases ht
      · exact hrxd
    | undisturbed hu => rw [hu.rxv, hs] at ht; cases ht
  · have haccept : hostWrite 0 w s = accept w s := by simp [hostWrite, hidle]
    rw [haccept]
    exact ⟨accept_rxv w s, accept_rxd w s⟩

end Sys2Proof.Machine
end

/-! # The host register port

The statements of 20_memory.md: what a host write and a host read do (R39 to R41), as the port's function and as the
host's turn. -/

section
namespace Sys2Proof.Machine

/-! ## The host's turns, out of reset and under it (R108) -/

theorem turn_hostWrite_of_released {s : State} (hrst : s.rst = false) (n : Nat) (w : Word) :
    turn (.hostWrite n w) s = .next (hostWrite n w s) := by
  simp [turn, hostWriteTurn, hrst]

theorem turn_hostWrite_of_reset {s : State} (hrst : s.rst = true) (n : Nat) (w : Word) :
    turn (.hostWrite n w) s = .next s := by
  simp [turn, hostWriteTurn, hrst]

theorem turn_hostRead_of_released {s : State} (hrst : s.rst = false) (n : Nat) :
    turn (.hostRead n) s = .next { s with reads := s.reads ++ [(n, hostRead n s)] } := by
  simp [turn, hostReadTurn, hrst]

theorem turn_hostRead_of_reset {s : State} (hrst : s.rst = true) (n : Nat) : turn (.hostRead n) s = .next s := by
  simp [turn, hostReadTurn, hrst]

/-! ## The branches of a write to register 0 (R40) -/

theorem hostWrite_of_busy {s : State} (hbusy : s.busy = true) (w : Word) : hostWrite 0 w s = rejectBusy s := by
  simp [hostWrite, hbusy]

theorem hostWrite_of_idle {s : State} (hidle : s.busy = false) (w : Word) : hostWrite 0 w s = accept w s := by
  simp [hostWrite, hidle]

theorem legalOpcode_of_range {o : Byte} (hlow : 1 ≤ o.toNat) (hhigh : o.toNat ≤ 7) : legalOpcode o = true :=
  decide_eq_true ⟨hlow, hhigh⟩

theorem legalOpcode_of_outside {o : Byte} (h : o.toNat = 0 ∨ 8 ≤ o.toNat) : legalOpcode o = false :=
  decide_eq_false (by omega)

/-- Settles O29: the write by `BUSY` (`hostWrite_of_busy`, `hostWrite_of_idle`), its acceptance by the range of the
opcode (`accept_legal`, `accept_illegal`). -/
theorem hostWriteCommand : Obligations.HostWriteCommand := by
  intro w s
  refine ⟨fun hrst => ⟨turn_hostWrite_of_released hrst 0 w, fun rest hagenda => ?_⟩,
    fun hbusy => hostWrite_of_busy hbusy w, fun hidle hlow hhigh => ?_, fun hidle hreserved => ?_⟩
  · rw [step_scheduled hagenda]
    exact turn_hostWrite_of_released (s := { s with agenda := rest }) hrst 0 w
  · rw [hostWrite_of_idle hidle, accept_legal (legalOpcode_of_range hlow hhigh)]
    rfl
  · rw [hostWrite_of_idle hidle, accept_illegal (legalOpcode_of_outside hreserved)]
    rfl

/-- Settles O31: by `hostWrite_readOnly`; under `rst` the host's turn does not even reach the port. -/
theorem readOnlyRegistersIgnoreWrites : Obligations.ReadOnlyRegistersIgnoreWrites := by
  intro n w s hn
  have hwrite : hostWrite n w s = s := hostWrite_readOnly n (Nat.pos_of_ne_zero hn) w s
  refine ⟨hwrite, ?_⟩
  cases hrst : s.rst with
  | false => rw [turn_hostWrite_of_released hrst, hwrite]
  | true => exact turn_hostWrite_of_reset hrst n w

/-! ## Reads (R39) -/

/-- R32: the received byte with zeros above it. -/
theorem rxdataWord_eq_setWidth (s : State) : rxdataWord s = s.rxd.setWidth 32 :=
  (BitVec.setWidth_eq_append (by decide)).symm

/-- Settles O32: the registers by the equations of `hostRead`, the host's turn by the level of `rst`. -/
theorem hostReadReturnsRegisters : Obligations.HostReadReturnsRegisters := fun s =>
  ⟨hostRead_cmd s, hostRead_status s, (hostRead_rxdata s).trans (rxdataWord_eq_setWidth s),
    fun n hn => hostRead_unmapped n hn s, fun n hrst => turn_hostRead_of_released hrst n,
    fun n hrst => turn_hostRead_of_reset hrst n⟩

end Sys2Proof.Machine
end

/-! # The encoding of commands

The statements of 30_encoding.md: the decoder read row by row (`decode_ok_iff`), words taken apart into the four bytes
of format C, and what a bit that a command does not use can change. -/

section
namespace Sys2Proof

open Sys2Proof.Machine Sys2Proof.Expected

/-! ## Words and their four bytes (R52) -/

theorem formatC_fields (w : Word) : formatC (fieldOpc w) (fieldA w) (fieldB w) (fieldC w) = w := by
  apply BitVec.eq_of_getLsbD_eq
  intro i hi
  simp only [formatC_getLsbD, fieldOpc, fieldA, fieldB, fieldC, BitVec.getLsbD_extractLsb']
  split_ifs <;> grind

@[simp] theorem fieldOpc_and (w w' : Word) : fieldOpc (w &&& w') = fieldOpc w &&& fieldOpc w' := BitVec.extractLsb'_and
@[simp] theorem fieldA_and (w w' : Word) : fieldA (w &&& w') = fieldA w &&& fieldA w' := BitVec.extractLsb'_and
@[simp] theorem fieldB_and (w w' : Word) : fieldB (w &&& w') = fieldB w &&& fieldB w' := BitVec.extractLsb'_and
@[simp] theorem fieldC_and (w w' : Word) : fieldC (w &&& w') = fieldC w &&& fieldC w' := BitVec.extractLsb'_and
@[simp] theorem fieldA_or (w w' : Word) : fieldA (w ||| w') = fieldA w ||| fieldA w' := BitVec.extractLsb'_or

theorem and_formatC (w : Word) (o a b c : Byte) :
    w &&& formatC o a b c = formatC (fieldOpc w &&& o) (fieldA w &&& a) (fieldB w &&& b) (fieldC w &&& c) := by
  conv_lhs => rw [← formatC_fields w]
  apply BitVec.eq_of_getLsbD_eq
  intro i _
  simp only [BitVec.getLsbD_and, formatC_getLsbD]
  split_ifs <;> rfl

theorem fieldC_getLsbD_zero (w : Word) : (fieldC w).getLsbD 0 = w.getLsbD 0 := by
  simp [fieldC]

@[simp] theorem byte_and_allOnes (x : Byte) : x &&& 0xFF#8 = x := BitVec.and_allOnes

/-- R53, R59: a one-bit operand and the zeros above it. -/
@[simp] theorem oneBitField_getElem (x : Byte) : oneBitField x[0] = x &&& 0x01#8 := by
  rw [BitVec.and_one_eq_setWidth_ofBool_getLsbD, BitVec.getLsbD_eq_getElem (by decide)]
  cases x[0] <;> rfl

@[simp] theorem toBit_ackOfBit (b : Bool) : (ackOfBit b).toBit = b := by cases b <;> rfl

@[simp] theorem toBit_accessOfBit (b : Bool) : (accessOfBit b).toBit = b := by cases b <;> rfl

/-! ## The decoder, row by row (R54, R55) -/

/-- The word is in the row of the command `i`, with the operands of `i` in their fields. -/
def Reads : Instr → Word → Prop
  | .start, w => fieldOpc w = 0x01#8
  | .stop, w => fieldOpc w = 0x02#8
  | .txbyte x, w => fieldOpc w = 0x03#8 ∧ fieldC w = x
  | .rxbyte p, w => fieldOpc w = 0x04#8 ∧ ackOfBit ((fieldC w).getLsbD 0) = p
  | .addr sa dir, w => fieldOpc w = 0x05#8 ∧ fieldA w = sa ∧ accessOfBit ((fieldC w).getLsbD 0) = dir
  | .wrreg sa ra d, w => fieldOpc w = 0x06#8 ∧ fieldA w = sa ∧ fieldB w = ra ∧ fieldC w = d
  | .rdreg sa ra, w => fieldOpc w = 0x07#8 ∧ fieldA w = sa ∧ fieldB w = ra

theorem decode_of_reads {i : Instr} {w : Word} (h : Reads i w) : decode w = .ok i := by
  cases i <;> simp_all [Reads, decode]

theorem decode_ok_iff {i : Instr} {w : Word} : decode w = .ok i ↔ Reads i w := by
  refine ⟨fun h => ?_, decode_of_reads⟩
  cases hlegal : legalOpcode (fieldOpc w) with
  | false => rw [decode_error_of_reserved hlegal] at h; cases h
  | true =>
    rcases (legalOpcode_iff _).mp hlegal with ho | ho | ho | ho | ho | ho | ho <;>
      simp only [decode, ho] at h <;> cases h <;> simp [Reads, ho]

/-- Settles O1: command by command, the laws of `Laws.RoundTrip`. -/
theorem decodeEncodeRoundTrip : Obligations.DecodeEncodeRoundTrip
  | .start => Laws.RoundTrip.start
  | .stop => Laws.RoundTrip.stop
  | .txbyte x => Laws.RoundTrip.txbyte x
  | .rxbyte p => Laws.RoundTrip.rxbyte p
  | .addr sa dir => Laws.RoundTrip.addr sa dir
  | .wrreg sa ra d => Laws.RoundTrip.wrreg sa ra d
  | .rdreg sa ra => Laws.RoundTrip.rdreg sa ra

/-! ## The bits a command uses (R55) -/

@[simp] theorem usedBits_start : usedBits .start = formatC 0xFF 0 0 0 := rfl
@[simp] theorem usedBits_stop : usedBits .stop = formatC 0xFF 0 0 0 := rfl
@[simp] theorem usedBits_txbyte (x : Byte) : usedBits (.txbyte x) = formatC 0xFF 0 0 0xFF := rfl
@[simp] theorem usedBits_rxbyte (p : AckFlag) : usedBits (.rxbyte p) = formatC 0xFF 0 0 0x01 := rfl
@[simp] theorem usedBits_addr (sa : Byte) (dir : Access) : usedBits (.addr sa dir) = formatC 0xFF 0xFF 0 0x01 := rfl
@[simp] theorem usedBits_wrreg (sa ra d : Byte) : usedBits (.wrreg sa ra d) = formatC 0xFF 0xFF 0xFF 0xFF := rfl
@[simp] theorem usedBits_rdreg (sa ra : Byte) : usedBits (.rdreg sa ra) = formatC 0xFF 0xFF 0xFF 0 := rfl

/-- The unused bits have no part in decoding. -/
theorem reads_and_usedBits (i : Instr) (w : Word) : Reads i (w &&& usedBits i) ↔ Reads i w := by
  cases i <;> simp [Reads]

/-- Encoding a decoded word keeps the bits its command uses and clears the others. -/
theorem encode_of_decode {i : Instr} {w : Word} (h : decode w = .ok i) : encode i = w &&& usedBits i := by
  have hreads := decode_ok_iff.mp h
  cases i with
  | start => simp [encode, and_formatC, show fieldOpc w = 0x01#8 from hreads]
  | stop => simp [encode, and_formatC, show fieldOpc w = 0x02#8 from hreads]
  | txbyte x => obtain ⟨ho, rfl⟩ := hreads; simp [encode, and_formatC, ho]
  | rxbyte p => obtain ⟨ho, rfl⟩ := hreads; simp [encode, and_formatC, ho]
  | addr sa dir => obtain ⟨ho, rfl, rfl⟩ := hreads; simp [encode, and_formatC, ho]
  | wrreg sa ra d => obtain ⟨ho, rfl, rfl, rfl⟩ := hreads; simp [encode, and_formatC, ho]
  | rdreg sa ra => obtain ⟨ho, rfl, rfl⟩ := hreads; simp [encode, and_formatC, ho]

/-- Settles O2: `encode_of_decode` with the masks of `usedBits` written out. -/
theorem encodeDecodeKeepsUsedBits : Obligations.EncodeDecodeKeepsUsedBits := fun _ =>
  ⟨encode_of_decode, encode_of_decode, fun _ => encode_of_decode, fun _ => encode_of_decode,
    fun _ _ => encode_of_decode, fun _ _ _ h => (encode_of_decode h).trans BitVec.and_allOnes,
    fun _ _ => encode_of_decode⟩

/-! ## The opcode alone decides (R54, R56) -/

theorem fieldOpc_of_masked {w : Word} {o : Byte} (h : w &&& formatC 0xFF 0 0 0 = formatC o 0 0 0) : fieldOpc w = o := by
  simpa using congrArg fieldOpc h

theorem legalOpcode_of_reserved {o : Byte} (h : o = 0x00#8 ∨ 0x08#8 ≤ o) : legalOpcode o = false := by
  rw [legalOpcode, decide_eq_false_iff_not]
  bv_omega

/-- Settles O3: the masked word gives the opcode, and with the fields as operands the word is in that opcode's row. -/
theorem decodeDependsOnOpcodeAlone : Obligations.DecodeDependsOnOpcodeAlone := fun _ =>
  ⟨fun h => decode_of_reads (i := .start) (fieldOpc_of_masked h),
    fun h => decode_of_reads (i := .stop) (fieldOpc_of_masked h),
    fun h => decode_of_reads (i := .txbyte _) ⟨fieldOpc_of_masked h, rfl⟩,
    fun h => decode_of_reads (i := .rxbyte _) ⟨fieldOpc_of_masked h, congrArg ackOfBit (fieldC_getLsbD_zero _)⟩,
    fun h => decode_of_reads (i := .addr _ _)
      ⟨fieldOpc_of_masked h, rfl, congrArg accessOfBit (fieldC_getLsbD_zero _)⟩,
    fun h => decode_of_reads (i := .wrreg _ _ _) ⟨fieldOpc_of_masked h, rfl, rfl, rfl⟩,
    fun h => decode_of_reads (i := .rdreg _ _) ⟨fieldOpc_of_masked h, rfl, rfl⟩,
    fun h => decode_error_of_reserved (legalOpcode_of_reserved h)⟩

/-! ## Ignored fields (R53, R55, R57) -/

/-- A field under no ignored bit is the same in two words that agree outside the ignored ones. -/
theorem field_of_or {w w' m : Word} {start : Nat} (h : w ||| m = w' ||| m) (hm : m.extractLsb' start 8 = 0x00#8) :
    w'.extractLsb' start 8 = w.extractLsb' start 8 := by
  simpa [BitVec.extractLsb'_or, hm] using (congrArg (BitVec.extractLsb' start 8) h).symm

theorem oneBit_of_or {w w' m : Word} (h : w ||| m = w' ||| m) (hm : m.getLsbD 0 = false) :
    (fieldC w').getLsbD 0 = (fieldC w).getLsbD 0 := by
  rw [fieldC_getLsbD_zero, fieldC_getLsbD_zero]
  have h0 : (w' ||| m).getLsbD 0 = (w ||| m).getLsbD 0 := by rw [h]
  simpa only [BitVec.getLsbD_or, hm, Bool.or_false] using h0

/-- R53: `A[0]` is no part of an address byte. -/
theorem addrByte_of_or {w w' m : Word} (h : w ||| m = w' ||| m) (hm : fieldA m = 0x01#8) (dir : Access) :
    addrByte (fieldA w') dir = addrByte (fieldA w) dir := by
  have ha : fieldA w' ||| 0x01#8 = fieldA w ||| 0x01#8 := by simpa [hm] using (congrArg fieldA h).symm
  have h7 : (fieldA w').extractLsb' 1 7 = (fieldA w).extractLsb' 1 7 := by
    simpa [BitVec.extractLsb'_or] using congrArg (BitVec.extractLsb' 1 7) ha
  rw [addrByte, h7, addrByte]

/-! The meaning of a slave address is in its address bytes alone (R82, R85, R86). -/

theorem exec_addr_congr {sa sa' : Byte} (h : ∀ dir, addrByte sa dir = addrByte sa' dir) (dir : Access) (s : State) :
    exec (.addr sa dir) s = exec (.addr sa' dir) s := by
  simp only [exec, execAddr, addressByte, h]

theorem exec_wrreg_congr {sa sa' : Byte} (h : ∀ dir, addrByte sa dir = addrByte sa' dir) (ra d : Byte) (s : State) :
    exec (.wrreg sa ra d) s = exec (.wrreg sa' ra d) s := by
  simp only [exec, execWrreg, wrregRoutine, openingToRegister, opening, addressByte, h]

theorem exec_rdreg_congr {sa sa' : Byte} (h : ∀ dir, addrByte sa dir = addrByte sa' dir) (ra : Byte) (s : State) :
    exec (.rdreg sa ra) s = exec (.rdreg sa' ra) s := by
  simp only [exec, execRdreg, rdregRoutine, openingToReaddress, openingToRegister, opening, addressByte, h]

/-- Words that agree outside the ignored fields decode to commands with one meaning, `A[0]` among the ignored. -/
theorem meaning_of_agreeing_words {i : Instr} {w w' : Word} (h : decode w = .ok i)
    (hagree : w ||| ignoredBits i = w' ||| ignoredBits i) :
    ∃ j, decode w' = .ok j ∧ ∀ s : State, exec j s = exec i s := by
  have hreads := decode_ok_iff.mp h
  have hopc : fieldOpc w' = fieldOpc w := field_of_or hagree (by cases i <;> simp [ignoredBits])
  cases i <;> simp only [ignoredBits] at hagree
  case start => exact ⟨.start, decode_of_reads (hopc.trans hreads), fun _ => rfl⟩
  case stop => exact ⟨.stop, decode_of_reads (hopc.trans hreads), fun _ => rfl⟩
  case txbyte x =>
    obtain ⟨ho, hx⟩ := hreads
    exact ⟨.txbyte x, decode_of_reads ⟨hopc.trans ho, (field_of_or hagree rfl).trans hx⟩, fun _ => rfl⟩
  case rxbyte p =>
    obtain ⟨ho, rfl⟩ := hreads
    exact ⟨_, decode_of_reads (i := .rxbyte _) ⟨hopc.trans ho, congrArg ackOfBit (oneBit_of_or hagree rfl)⟩,
      fun _ => rfl⟩
  case addr sa dir =>
    obtain ⟨ho, rfl, rfl⟩ := hreads
    exact ⟨_, decode_of_reads (i := .addr _ _)
      ⟨hopc.trans ho, rfl, congrArg accessOfBit (oneBit_of_or hagree rfl)⟩,
      exec_addr_congr (addrByte_of_or hagree rfl) _⟩
  case wrreg sa ra d =>
    obtain ⟨ho, rfl, hra, hd⟩ := hreads
    exact ⟨_, decode_of_reads (i := .wrreg _ _ _)
      ⟨hopc.trans ho, rfl, (field_of_or hagree rfl).trans hra, (field_of_or hagree rfl).trans hd⟩,
      exec_wrreg_congr (addrByte_of_or hagree rfl) ra d⟩
  case rdreg sa ra =>
    obtain ⟨ho, rfl, hra⟩ := hreads
    exact ⟨_, decode_of_reads (i := .rdreg _ _) ⟨hopc.trans ho, rfl, (field_of_or hagree rfl).trans hra⟩,
      exec_rdreg_congr (addrByte_of_or hagree rfl) ra⟩

/-- Settles O4: decoding by `reads_and_usedBits`, the meaning by `meaning_of_agreeing_words`, `CMDR` by acceptance, and
the encoder by `encode_of_decode` on its own word. -/
theorem ignoredFieldsChangeNothing : Obligations.IgnoredFieldsChangeNothing := by
  refine ⟨fun w w' i h hagree => ?_, fun w w' i => meaning_of_agreeing_words, fun w s hidle => ?_, fun i => ?_⟩
  · apply decode_of_reads
    rw [← reads_and_usedBits, ← hagree, reads_and_usedBits]
    exact decode_ok_iff.mp h
  · rw [hostWrite_of_idle hidle, hostRead_cmd]
    exact ⟨accept_cmdr w s, accept_cmdr w s⟩
  · rw [encode_of_decode (decodeEncodeRoundTrip i), BitVec.and_assoc, BitVec.and_not_self]
    exact BitVec.and_zero

/-! ## The assembler (R59) -/

theorem assemble_wellFormed {a : AsmLine} (h : a.wellFormed = true) : assemble a = some (encode a.toInstr) := by
  simp [assemble, h]

theorem assemble_illFormed {a : AsmLine} (h : ¬a.wellFormed = true) : assemble a = none := by
  simp [assemble, h]

/-- R52: the four bytes shifted to their places. -/
theorem formatC_eq_or (o a b c : Byte) :
    formatC o a b c =
      o.setWidth 32 <<< 24 ||| a.setWidth 32 <<< 16 ||| b.setWidth 32 <<< 8 ||| c.setWidth 32 := by
  apply BitVec.eq_of_getLsbD_eq
  intro i hi
  simp only [formatC_getLsbD, BitVec.getLsbD_or, BitVec.getLsbD_shiftLeft, BitVec.getLsbD_setWidth]
  split_ifs <;> grind

theorem setWidth_byte_operand {n : Nat} (h : n < 256) : (BitVec.ofNat 8 n).setWidth 32 = BitVec.ofNat 32 n := by
  bv_omega

/-- R59: the word of a well-formed line with the operands `sa`, `ra` and `d`, 0 for one it has not. -/
theorem assemble_operands {a : AsmLine} {o : Byte} {sa ra d : Nat} (hline : a.wellFormed = true)
    (hword : encode a.toInstr = formatC o (BitVec.ofNat 8 sa) (BitVec.ofNat 8 ra) (BitVec.ofNat 8 d))
    (hsa : sa < 256) (hra : ra < 256) (hd : d < 256) :
    assemble a = some
      (o.setWidth 32 <<< 24 ||| BitVec.ofNat 32 sa <<< 16 ||| BitVec.ofNat 32 ra <<< 8 ||| BitVec.ofNat 32 d) := by
  rw [assemble_wellFormed hline, hword, formatC_eq_or, setWidth_byte_operand hsa, setWidth_byte_operand hra,
    setWidth_byte_operand hd]

/-- Settles O6: line by line `assemble_operands`; a line with an operand out of range is not well formed. -/
theorem assemblerWords : Obligations.AssemblerWords := by
  refine ⟨fun d hd => ?_, fun sa hsa => ?_, fun sa hsa => ?_, fun sa ra d hsa hra hd => ?_, fun sa ra hsa hra => ?_,
    rfl, rfl, rfl, rfl, fun d hd => ?_, fun sa dir hsa => ?_, fun sa ra d h => ?_, fun sa ra h => ?_⟩
  · simpa using assemble_operands (a := .txbyte d) (sa := 0) (ra := 0) (by simpa [AsmLine.wellFormed]) rfl
      (by decide) (by decide) hd
  · simpa using assemble_operands (a := .addr sa .write) (ra := 0) (d := 0) (by simpa [AsmLine.wellFormed]) rfl
      hsa (by decide) (by decide)
  · rw [show 0x05000001#32 = 0x05000000#32 ||| 0x00000001#32 from rfl, BitVec.or_assoc, BitVec.or_comm 0x00000001#32,
      ← BitVec.or_assoc]
    simpa using assemble_operands (a := .addr sa .read) (ra := 0) (d := 1) (by simpa [AsmLine.wellFormed]) rfl
      hsa (by decide) (by decide)
  · simpa using assemble_operands (a := .wrreg sa ra d) (by simp [AsmLine.wellFormed, hsa, hra, hd]) rfl hsa hra hd
  · simpa using assemble_operands (a := .rdreg sa ra) (d := 0) (by simp [AsmLine.wellFormed, hsa, hra]) rfl hsa hra
      (by decide)
  all_goals
    apply assemble_illFormed
    simp only [AsmLine.wellFormed, Bool.and_eq_true, decide_eq_true_eq]
    omega

end Sys2Proof
end

/-! # Commands run to their end

The statements of 30_encoding.md on execution (R60, R62): a step of the sequencer as `exec`, the state an acknowledged
command ends in, and the composite commands as sequences of primitive ones. -/

section
namespace Sys2Proof.Machine

open Sys2Proof.Expected

/-! ## A step of the sequencer is `exec` of the command in `CMDR` (R49, R62) -/

theorem sequencerTurn_refuses {s : State} {i : Instr} {r : Refusal} (hrst : s.rst = false) (hbusy : s.busy = true)
    (hdecode : decode s.cmdr = .ok i) (h : exec i s = .refused r) : sequencerTurn s = .refused r := by
  simp [sequencerTurn, hrst, hbusy, hdecode, h]

theorem sequencerTurn_faults {s : State} {i : Instr} {f : Fault} (hrst : s.rst = false) (hbusy : s.busy = true)
    (hdecode : decode s.cmdr = .ok i) (h : exec i s = .fault f) : sequencerTurn s = .fault f := by
  simp [sequencerTurn, hrst, hbusy, hdecode, h]

/-- Settles O38: the sequencer's turn answers as `exec` does, at the state the agenda or the free environment leaves. -/
theorem stepRunsDecodedCommand : Obligations.StepRunsDecodedCommand := by
  intro s i hrst hbusy hdecode
  refine ⟨fun rest t hagenda h => ?_, fun rest r hagenda h => ?_, fun rest f hagenda h => ?_, fun hagenda => ?_⟩
  · rw [step_scheduled hagenda]
    exact sequencerTurn_runs (s := { s with agenda := rest }) hrst hbusy hdecode h
  · rw [step_scheduled hagenda]
    exact sequencerTurn_refuses (s := { s with agenda := rest }) hrst hbusy hdecode h
  · rw [step_scheduled hagenda]
    exact sequencerTurn_faults (s := { s with agenda := rest }) hrst hbusy hdecode h
  · rw [step_unscheduled hagenda]
    exact ⟨fun _ => sequencerTurn_runs (s := freeEnvironment s) hrst hbusy hdecode,
      fun _ => sequencerTurn_refuses (s := freeEnvironment s) hrst hbusy hdecode,
      fun _ => sequencerTurn_faults (s := freeEnvironment s) hrst hbusy hdecode⟩

/-! ## A command run to its end (R62, R67)

The state a run ends in, in one equation: the pins, the events and the count follow from the routine alone, and the
other registers are what the attached writes make of the levels at their offsets. -/

/-- The state that a routine's micro-operations make of `s`, the environment holding a level of the list at each. -/
def performed : Routine → List Level → State → State
  | m :: r, l :: ls, s => performed r ls (stepped m (holdSda l s))
  | _, _, s => s

/-- The events of micro-operations whose reads return the levels of the list. -/
def eventsOf (ms : List MicroOp) (ls : List Level) : List Event := List.zipWith (fun m l => eventOf l m) ms ls

/-- The attached writes at their offsets, made one after another of `s`, with the levels `f` gives. -/
def written (f : Nat → Level) (ws : List (Nat × Effect)) (s : State) : State :=
  ws.foldl (fun u w => applyEffect (f w.1) u w.2) s

/-- `s` with the elements a micro-operation itself writes, and the environment's level, as given. -/
def moved (p : Pins) (tr : List Event) (upc : Nat) (l : Level) (s : State) : State :=
  { s with sclOut := p.scl, sdaOut := p.sda, sdaDir := p.dir, tr := tr, upc := upc, envSda := l }

theorem applyEffect_moved (p : Pins) (tr : List Event) (n : Nat) (l v : Level) (s : State) (e : Effect) :
    applyEffect v (moved p tr n l s) e = moved p tr n l (applyEffect v s e) := by
  cases e with
  | sampleAck c =>
    cases c with
    | none => rfl
    | some c => cases v <;> rfl
  | _ => rfl

theorem written_moved (f : Nat → Level) (ws : List (Nat × Effect)) (p : Pins) (tr : List Event) (n : Nat) (l : Level)
    (s : State) : written f ws (moved p tr n l s) = moved p tr n l (written f ws s) :=
  List.foldl_hom (moved p tr n l) fun u w => applyEffect_moved p tr n l (f w.1) u w.2

/-! ### Writes that take the sampled level -/

/-- Every shift of a received bit is attached to a read (R77). -/
def shiftsAtReads (r : Routine) : Bool :=
  r.all fun m => decide (m.op = .readDataLine) || decide (Effect.shiftSample ∉ m.effects)

theorem shiftsAtReads_append (r r' : Routine) : shiftsAtReads (r ++ r') = (shiftsAtReads r && shiftsAtReads r') :=
  List.all_append

theorem shiftsAtReads_enter (o : OrchState) (r : Routine) :
    shiftsAtReads (withLast (.enter o) r) = shiftsAtReads r := by
  induction r with
  | nil => rfl
  | cons m r ih =>
    cases r with
    | nil => simp [shiftsAtReads, withLast]
    | cons m' r => exact congrArg (_ && ·) ih

theorem startRoutine_shiftsAtReads : shiftsAtReads startRoutine = true := rfl
theorem stopRoutine_shiftsAtReads : shiftsAtReads stopRoutine = true := rfl
theorem transmitByte_shiftsAtReads (c : Option ResultCode) (x : Byte) : shiftsAtReads (transmitByte c x) = true := rfl
theorem receiveByte_shiftsAtReads (p : AckFlag) : shiftsAtReads (receiveByte p) = true := rfl

theorem routineOf_shiftsAtReads (i : Instr) (res : ResultCode) : shiftsAtReads (routineOf i res) = true := by
  cases i with
  | wrreg sa ra d =>
    cases res <;>
      simp [routineOf, wrregRoutine, openingToRegister, opening, closing, addressByte, shiftsAtReads_append,
        shiftsAtReads_enter, startRoutine_shiftsAtReads, stopRoutine_shiftsAtReads, transmitByte_shiftsAtReads]
  | rdreg sa ra =>
    cases res <;>
      simp [routineOf, rdregRoutine, openingToReaddress, openingToRegister, opening, closing, addressByte,
        shiftsAtReads_append, shiftsAtReads_enter, startRoutine_shiftsAtReads, stopRoutine_shiftsAtReads,
        transmitByte_shiftsAtReads, receiveByte_shiftsAtReads]
  | _ => rfl

/-- The write takes the level that its step's read returned. -/
def Effect.takesLevel (e : Effect) : Prop := e = .shiftSample ∨ ∃ c, e = .sampleAck c

/-- The writes that take a level are attached to reads. -/
def LevelsAtReads (r : Routine) : Prop := ∀ m ∈ r, ∀ e ∈ m.effects, e.takesLevel → m.op = .readDataLine

theorem routineOf_levelsAtReads (i : Instr) (res : ResultCode) : LevelsAtReads (routineOf i res) := by
  rintro m hm e he (rfl | ⟨c, rfl⟩)
  · have h := List.all_eq_true.mp (routineOf_shiftsAtReads i res) m hm
    simpa [he] using h
  · obtain ⟨k, hk⟩ := List.mem_iff_getElem?.mp hm
    exact sample_reads hk he

theorem applyEffect_of_no_level {e : Effect} (h : ¬e.takesLevel) (v v' : Level) (s : State) :
    applyEffect v s e = applyEffect v' s e := by
  cases e with
  | shiftSample => exact absurd (.inl rfl) h
  | sampleAck c => exact absurd (.inr ⟨c, rfl⟩) h
  | _ => rfl

theorem eventOf_of_not_read {m : MicroOp} (h : m ≠ .readDataLine) (v v' : Level) : eventOf v m = eventOf v' m := by
  cases m with
  | readDataLine => exact absurd rfl h
  | _ => rfl

/-! ### One micro-operation, and all of a routine -/

theorem sdaIn_of_in {s : State} (h : s.sdaDir = .IN) : sdaIn s = s.envSda := by
  simp [sdaIn, wireSda, sdaPullLow, wireLevel, h]

theorem microOp_holdSda (v l : Level) (m : MicroOp) (s : State) :
    microOp v m (holdSda l s) = moved (s.pins.after m) (s.tr ++ [eventOf v m]) (s.upc + 1) l s := by
  cases m <;> rfl

/-- The reads of a routine from its first micro-operation on (R121). -/
theorem readsIn_cons {d : Dir} {m : MicroStep} {r : Routine} :
    readsIn d (ops (m :: r)) = true ↔
      (m.op = .readDataLine → d = .IN) ∧ readsIn (dirAfter d [m.op]) (ops r) = true := by
  rw [ops, List.map_cons, readsIn, Bool.and_eq_true, decide_eq_true_eq, ← ops]

theorem stepped_sdaDir (m : MicroStep) (s : State) : (stepped m s).sdaDir = dirAfter s.sdaDir [m.op] :=
  (congrArg Pins.dir (stepped_pins m s)).trans (pins_after_dir s.pins m.op)

/-- One micro-operation under the level `l`: a read returns `l`, and so does the level of every write that takes one. -/
theorem stepped_holdSda {m : MicroStep} {l : Level} {s : State} (hread : m.op = .readDataLine → s.sdaDir = .IN)
    (hlevel : ∀ e ∈ m.effects, e.takesLevel → m.op = .readDataLine) :
    stepped m (holdSda l s) =
      moved (s.pins.after m.op) (s.tr ++ [eventOf l m.op]) (s.upc + 1) l (m.effects.foldl (applyEffect l) s) := by
  rw [stepped, microOp_holdSda, List.foldl_hom (moved _ _ _ _) fun u e => applyEffect_moved _ _ _ _ _ u e]
  by_cases hop : m.op = .readDataLine
  · rw [sdaIn_of_in (s := holdSda l s) (hread hop), holdSda_envSda]
  · rw [eventOf_of_not_read hop _ l, List.foldl_ext _ (applyEffect l) s fun u e he =>
      applyEffect_of_no_level (fun ht => hop (hlevel e he ht)) _ l u]

/-- A whole routine: pins, events and count follow from its micro-operations, the rest from its attached writes, which
begin at offset `n` of the levels `f`. -/
theorem performed_eq {r : Routine} {ls : List Level} {s : State} (f : Nat → Level) (n : Nat)
    (hlength : ls.length = r.length) (hreads : readsIn s.sdaDir (ops r) = true) (hlevels : LevelsAtReads r)
    (hf : ∀ k l, ls[k]? = some l → f (n + k) = l) :
    performed r ls s =
      moved (pinsAfter r s.pins) (s.tr ++ eventsOf (ops r) ls) (s.upc + r.length) (ls.getLastD s.envSda)
        (written f (effectsFrom n r) s) := by
  induction r generalizing ls s n with
  | nil =>
    obtain rfl := List.length_eq_zero_iff.mp hlength
    simp [performed, eventsOf, effectsFrom, written, moved, State.pins]
  | cons m r ih =>
    cases ls with
    | nil => cases hlength
    | cons l ls =>
      obtain ⟨hread, hreads⟩ := readsIn_cons.mp hreads
      obtain ⟨hlevel, hlevels⟩ := List.forall_mem_cons.mp hlevels
      have hwritten : written f (effectsFrom n (m :: r)) s =
          written f (effectsFrom (n + 1) r) (m.effects.foldl (applyEffect l) s) := by
        rw [effectsFrom, written, List.foldl_append, List.foldl_map, ← hf 0 l rfl]
        rfl
      rw [performed, stepped_holdSda hread hlevel, ih (n + 1) (Nat.succ.inj hlength)
        ((congrArg (readsIn · _) (pins_after_dir s.pins m.op)).trans hreads) hlevels
        (fun k l' hk => by rw [Nat.add_assoc, Nat.add_comm 1]; exact hf (k + 1) l' hk), written_moved, hwritten]
      simp [moved, eventsOf, ops, State.pins, List.getLast?_cons, Nat.add_comm, Nat.add_left_comm]

/-! ## A command acknowledged throughout -/

/-- The level at every sample that could raise a code is low. -/
def Acknowledged (i : Instr) (ls : List Level) : Prop :=
  ∀ k c, (k, Effect.sampleAck (some c)) ∈ effectsOf i .OK → ls[k]? = some .L

/-- R84 (c): an acknowledged sample leaves `RES`. -/
theorem stepped_res_of_ack {m : MicroStep} {s : State}
    (h : ∀ c, Effect.sampleAck (some c) ∈ m.effects → sdaIn s = .L) : (stepped m s).res = s.res := by
  obtain hres | hraised := stepped_res m s
  · exact hres
  · obtain ⟨-, hres⟩ | ⟨-, -, hres | hhigh⟩ := stepped_ack m s
    · exact hres
    · exact hres
    · cases hhigh.symm.trans (h _ hraised)

/-- One micro-operation of a command that has raised no code. -/
theorem exec_holdSda {i : Instr} {m : MicroStep} {l : Level} {s : State} (hres : s.res = .OK)
    (hm : (routineOf i .OK)[s.upc]? = some m) (hread : m.op = .readDataLine → s.sdaDir = .IN) :
    exec i (holdSda l s) = .next (if s.upc + 1 = (routineOf i .OK).length then complete (stepped m (holdSda l s))
      else stepped m (holdSda l s)) := by
  refine exec_next.mpr ⟨m, by simp [hres, hm], ?_, by simp [hres]⟩
  rintro ⟨hop, hout⟩
  cases (hread hop).symm.trans hout

/-- The rest of an acknowledged command, from micro-operation `UPC` on: by induction on the rest of the routine. -/
theorem execRun_rest {i : Instr} {rest : Routine} {ls : List Level} {s : State}
    (hrest : (routineOf i .OK).drop s.upc = rest) (hmore : rest ≠ []) (hlength : ls.length = rest.length)
    (hres : s.res = .OK) (hreads : readsIn s.sdaDir (ops rest) = true)
    (hack : ∀ j c, (s.upc + j, Effect.sampleAck (some c)) ∈ effectsOf i .OK → ls[j]? = some .L) :
    execRun i ls s = .next (complete (performed rest ls s)) := by
  induction rest generalizing ls s with
  | nil => exact absurd rfl hmore
  | cons m rest ih =>
    cases ls with
    | nil => cases hlength
    | cons l ls =>
      have hm : (routineOf i .OK)[s.upc]? = some m := by rw [← List.head?_drop, hrest]; rfl
      have hnext : (routineOf i .OK).drop (s.upc + 1) = rest := by rw [← List.tail_drop, hrest]; rfl
      obtain ⟨hread, hreads⟩ := readsIn_cons.mp hreads
      refine execRun_cons.mpr ⟨_, exec_holdSda hres hm hread, ?_⟩
      split
      · next hlast =>
        obtain rfl : rest = [] := by rw [← hnext, hlast, List.drop_length]
        obtain rfl := List.length_eq_zero_iff.mp (Nat.succ.inj hlength)
        rfl
      · next hlast =>
        have hmore : rest ≠ [] := by
          intro hend
          rw [← hnext, List.drop_eq_nil_iff] at hend
          exact hlast (Nat.le_antisymm (List.getElem?_eq_some_iff.mp hm).1 hend)
        have hkept : (stepped m (holdSda l s)).res = .OK := by
          rw [stepped_res_of_ack fun c hc => ?_, holdSda_res, hres]
          rw [sdaIn_of_in (s := holdSda l s) (hread (sample_reads hm hc))]
          exact Option.some.inj (hack 0 c (effect_listed hm hc))
        refine ih (by rwa [stepped_upc]) hmore (Nat.succ.inj hlength) hkept (by rwa [stepped_sdaDir]) fun j c hc => ?_
        exact hack (j + 1) c (by rwa [stepped_upc, holdSda_upc, Nat.add_right_comm] at hc)

/-- R62: an acknowledged command runs through its whole routine and completes. -/
theorem execRun_acknowledged {i : Instr} {ls : List Level} {s : State} (hlength : ls.length = lengthOf i .OK)
    (hack : Acknowledged i ls) (hupc : s.upc = 0) (hres : s.res = .OK) :
    execRun i ls s = .next (complete (performed (routineOf i .OK) ls s)) := by
  rw [← routineOf_length] at hlength
  have hmore : routineOf i .OK ≠ [] := List.ne_nil_of_length_pos (by rw [routineOf_length]; exact lengthOf_pos i .OK)
  exact execRun_rest (by rw [hupc, List.drop_zero]) hmore hlength hres (routineOf_readsIn i .OK _)
    fun j c hc => hack j c (by rwa [hupc, Nat.zero_add] at hc)

/-- The state in which a command ends that the host writes to an idle block and that is acknowledged throughout. -/
def commanded (i : Instr) (ls : List Level) (s : State) : State :=
  complete (performed (routineOf i .OK) ls (accept (encode i) s))

/-- R55: the encoder writes a legal opcode. -/
theorem encode_legal : (i : Instr) → legalOpcode (fieldOpc (encode i)) = true
  | .start => Laws.OpcodeLegal.start
  | .stop => Laws.OpcodeLegal.stop
  | .txbyte x => Laws.OpcodeLegal.txbyte x
  | .rxbyte p => Laws.OpcodeLegal.rxbyte p
  | .addr sa dir => Laws.OpcodeLegal.addr sa dir
  | .wrreg sa ra d => Laws.OpcodeLegal.wrreg sa ra d
  | .rdreg sa ra => Laws.OpcodeLegal.rdreg sa ra

theorem accept_encode_res (i : Instr) (s : State) : (accept (encode i) s).res = .OK := by
  rw [accept_legal (encode_legal i)]
  rfl

theorem execRun_commanded {i : Instr} {ls : List Level} {s : State} (hidle : s.busy = false)
    (hlength : ls.length = lengthOf i .OK) (hack : Acknowledged i ls) :
    execRun i ls (hostWrite 0 (encode i) s) = .next (commanded i ls s) := by
  rw [hostWrite_of_idle hidle]
  exact execRun_acknowledged hlength hack (accept_upc _ s) (accept_encode_res i s)

/-- The end of an acknowledged command: what its attached writes make of the accepted state, its events added. -/
theorem commanded_eq {i : Instr} {ls : List Level} (s : State) (hlength : ls.length = lengthOf i .OK) :
    commanded i ls s = complete (moved (pinsAfter (routineOf i .OK) s.pins)
      (s.tr ++ eventsOf (ops (routineOf i .OK)) ls) (lengthOf i .OK) (ls.getLastD (accept (encode i) s).envSda)
      (written (fun k => ls.getD k .H) (effectsOf i .OK) (accept (encode i) s))) := by
  rw [commanded, performed_eq (fun k => ls.getD k .H) 0 (hlength.trans (routineOf_length i .OK).symm)
    (routineOf_readsIn i .OK _) (routineOf_levelsAtReads i .OK) (fun k l hk => by simp [hk]), routineOf_effects,
    routineOf_length, accept_pins, accept_tr, accept_upc, Nat.zero_add]

@[simp] theorem commanded_busy (i : Instr) (ls : List Level) (s : State) : (commanded i ls s).busy = false := rfl

theorem commanded_tr {i : Instr} {ls : List Level} (s : State) (hlength : ls.length = lengthOf i .OK) :
    (commanded i ls s).tr = s.tr ++ eventsOf (ops (routineOf i .OK)) ls := by
  rw [commanded_eq s hlength]
  rfl

/-! ## Primitive commands one after another -/

/-- The state after the host issued the commands of the list, each to the end of the one before it. -/
def issued (l : List (Instr × List Level)) (s : State) : State := l.foldl (fun u c => commanded c.1 c.2 u) s

/-- Commands that raise no code, each with a level for every micro-operation. -/
def Primitives (l : List (Instr × List Level)) : Prop :=
  ∀ c ∈ l, c.2.length = lengthOf c.1 .OK ∧ raisingSamples c.1 = []

theorem acknowledged_of_no_code {i : Instr} (ls : List Level) (h : raisingSamples i = []) : Acknowledged i ls := by
  intro k c hc
  obtain ⟨hk, -⟩ := raising_sample hc
  rw [h] at hk
  cases hk

theorem issue_primitives {l : List (Instr × List Level)} {s : State} (h : Primitives l) (hidle : s.busy = false) :
    issue l s = .next (issued l s) := by
  induction l generalizing s with
  | nil => rfl
  | cons c l ih =>
    obtain ⟨⟨hlength, hcode⟩, h⟩ := List.forall_mem_cons.mp h
    rw [issue, execRun_commanded hidle hlength (acknowledged_of_no_code _ hcode)]
    exact ih h (commanded_busy _ _ _)

/-- The events of the commands of the list. -/
def eventsOfAll (l : List (Instr × List Level)) : List Event :=
  l.flatMap fun c => eventsOf (ops (routineOf c.1 .OK)) c.2

theorem issued_tr {l : List (Instr × List Level)} (s : State) (h : Primitives l) :
    (issued l s).tr = s.tr ++ eventsOfAll l := by
  induction l generalizing s with
  | nil => exact (List.append_nil _).symm
  | cons c l ih =>
    obtain ⟨⟨hlength, -⟩, h⟩ := List.forall_mem_cons.mp h
    rw [issued, List.foldl_cons, ← issued, ih _ h, commanded_tr s hlength, List.append_assoc]
    rfl

theorem eventsOfAll_eq {l : List (Instr × List Level)} (h : Primitives l) :
    eventsOfAll l = eventsOf (l.flatMap fun c => ops (routineOf c.1 .OK)) (l.flatMap fun c => c.2) := by
  induction l with
  | nil => rfl
  | cons c l ih =>
    obtain ⟨⟨hlength, -⟩, h⟩ := List.forall_mem_cons.mp h
    have hops : (ops (routineOf c.1 .OK)).length = c.2.length := by
      rw [ops, List.length_map, routineOf_length, hlength]
    rw [eventsOfAll, List.flatMap_cons, ← eventsOfAll, ih h, List.flatMap_cons, List.flatMap_cons]
    exact (List.zipWith_append hops).symm

/-- A command whose micro-operations are those of a list of primitive commands appends the events of that list. -/
theorem commanded_tr_eq_issued {i : Instr} {l : List (Instr × List Level)} (s : State) (h : Primitives l)
    (hops : ops (routineOf i .OK) = l.flatMap fun c => ops (routineOf c.1 .OK))
    (hlength : (l.flatMap fun c => c.2).length = lengthOf i .OK) :
    (commanded i (l.flatMap fun c => c.2) s).tr = (issued l s).tr := by
  rw [commanded_tr s hlength, issued_tr s h, eventsOfAll_eq h, hops]

/-! ## Composite commands as sequences of primitive commands (R60) -/

theorem ops_transmitByte (c : Option ResultCode) (x : Byte) : ops (transmitByte c x) = ops (transmitByte none x) := rfl

/-- R85: the stages of WRREG. -/
theorem wrreg_ops (sa ra d : Byte) (l₁ l₂ l₃ l₄ l₅ : List Level) :
    ops (routineOf (.wrreg sa ra d) .OK) =
      [(Instr.start, l₁), (.addr sa .write, l₂), (.txbyte ra, l₃), (.txbyte d, l₄), (.stop, l₅)].flatMap
        fun c => ops (routineOf c.1 .OK) := by
  simp [routineOf, wrregRoutine, openingToRegister, opening, closing, addressByte, ops_transmitByte (some _)]

/-- R86: the stages of RDREG. -/
theorem rdreg_ops (sa ra : Byte) (l₁ l₂ l₃ l₄ l₅ l₆ l₇ : List Level) :
    ops (routineOf (.rdreg sa ra) .OK) =
      [(Instr.start, l₁), (.addr sa .write, l₂), (.txbyte ra, l₃), (.start, l₄), (.addr sa .read, l₅),
        (.rxbyte .NACK, l₆), (.stop, l₇)].flatMap fun c => ops (routineOf c.1 .OK) := by
  simp [routineOf, rdregRoutine, openingToReaddress, openingToRegister, opening, closing, addressByte,
    ops_transmitByte (some _)]

/-! ## The received byte (R22, R27, R77) -/

/-- The byte of the samples of a `ReceiveByte` that begins at offset `n` (R77). -/
def receivedByte (f : Nat → Level) (n : Nat) : Byte :=
  [5, 13, 21, 29, 37, 45, 53, 61].foldl (fun b k => shiftIn b (bitOf (f (n + k)))) 0x00#8

theorem applyEffect_sh (v : Level) (s : State) (e : Effect) :
    (applyEffect v s e).sh =
      if e = .clearShift then 0x00#8 else if e = .shiftSample then shiftIn s.sh (bitOf v) else s.sh := by
  cases e with
  | sampleAck c => cases c <;> cases v <;> rfl
  | _ => rfl

/-- R22, R27: only `presentByte` writes `RXD` and `RXV`. -/
theorem applyEffect_rxd (v : Level) (s : State) (e : Effect) :
    (applyEffect v s e).rxd = if e = .presentByte then s.sh else s.rxd := by
  cases e with
  | sampleAck c => cases c <;> cases v <;> rfl
  | _ => rfl

theorem applyEffect_rxv (v : Level) (s : State) (e : Effect) :
    (applyEffect v s e).rxv = if e = .presentByte then true else s.rxv := by
  cases e with
  | sampleAck c => cases c <;> cases v <;> rfl
  | _ => rfl

/-- R77: RXBYTE presents the byte of its eight samples. -/
theorem written_rxbyte (f : Nat → Level) (p : AckFlag) (s : State) :
    (written f (effectsOf (.rxbyte p) .OK) s).rxd = receivedByte f 0 ∧
      (written f (effectsOf (.rxbyte p) .OK) s).rxv = true := by
  simp [written, effectsOf, receiveByte_effects, applyEffect_rxd, applyEffect_rxv, applyEffect_sh, receivedByte]

/-- R86: RDREG presents the byte of the eight samples of its `ReceiveByte`, which begins at offset 187. -/
theorem written_rdreg (f : Nat → Level) (sa ra : Byte) (s : State) :
    (written f (effectsOf (.rdreg sa ra) .OK) s).rxd = receivedByte f 187 ∧
      (written f (effectsOf (.rdreg sa ra) .OK) s).rxv = true := by
  simp [written, effectsOf, applyEffect_rxd, applyEffect_rxv, applyEffect_sh, receivedByte]

/-- The byte register after an acknowledged command (R22, R27). -/
theorem commanded_byte {i : Instr} {ls : List Level} (s : State) (h : ls.length = lengthOf i .OK) :
    (commanded i ls s).rxd = (written (fun k => ls.getD k .H) (effectsOf i .OK) (accept (encode i) s)).rxd ∧
      (commanded i ls s).rxv = (written (fun k => ls.getD k .H) (effectsOf i .OK) (accept (encode i) s)).rxv := by
  rw [commanded_eq s h]
  exact ⟨rfl, rfl⟩

theorem commanded_rxbyte (p : AckFlag) {ls : List Level} (s : State) (h : ls.length = 73) :
    (commanded (.rxbyte p) ls s).rxd = receivedByte (fun k => ls.getD k .H) 0 ∧
      (commanded (.rxbyte p) ls s).rxv = true := by
  obtain ⟨hrxd, hrxv⟩ := commanded_byte (i := .rxbyte p) s h
  rw [hrxd, hrxv]
  exact written_rxbyte _ p _

theorem commanded_rdreg (sa ra : Byte) {ls : List Level} (s : State) (h : ls.length = 268) :
    (commanded (.rdreg sa ra) ls s).rxd = receivedByte (fun k => ls.getD k .H) 187 ∧
      (commanded (.rdreg sa ra) ls s).rxv = true := by
  obtain ⟨hrxd, hrxv⟩ := commanded_byte (i := .rdreg sa ra) s h
  rw [hrxd, hrxv]
  exact written_rdreg _ sa ra _

/-- R40: the acceptance of STOP clears `RXV`, and STOP presents no byte. -/
theorem commanded_stop_rxv {ls : List Level} (s : State) (h : ls.length = 8) : (commanded .stop ls s).rxv = false := by
  obtain ⟨-, hrxv⟩ := commanded_byte (i := .stop) s h
  rw [hrxv]
  exact accept_rxv (encode .stop) s

/-! ## The levels of the stages -/

theorem levelAt_append {l : List Level} {k : Nat} {v : Level} (h : LevelAt l k v) (l' : List Level) :
    LevelAt (l ++ l') k v := by
  obtain ⟨hk, -⟩ := List.getElem?_eq_some_iff.mp h
  rw [LevelAt, List.getElem?_append_left hk, h]

theorem levelAt_after {l l' : List Level} {k n : Nat} {v : Level} (hl : l.length = n) (h : LevelAt l' k v) :
    LevelAt (l ++ l') (n + k) v := by
  rw [LevelAt, List.getElem?_append_right (by omega), hl, Nat.add_sub_cancel_left, h]

/-- The same levels in the places of the samples give the same byte. -/
theorem receivedByte_congr {ls ls' : List Level} {n : Nat} (hlength : ls'.length = 73)
    (h : ∀ k v, LevelAt ls' k v → LevelAt ls (n + k) v) :
    receivedByte (fun k => ls.getD k .H) n = receivedByte (fun k => ls'.getD k .H) 0 := by
  have hlevel (k : Nat) (hk : k < 73) : ls.getD (n + k) .H = ls'.getD k .H := by
    have hv : ls'[k]? = some (ls'[k]) := List.getElem?_eq_getElem (hk.trans_eq hlength.symm)
    have hn : ls[n + k]? = some (ls'[k]) := h k _ hv
    rw [List.getD_eq_getElem?_getD, List.getD_eq_getElem?_getD, hv, hn]
  simp only [receivedByte, List.foldl_cons, List.foldl_nil, Nat.zero_add]
  rw [hlevel 5 (by decide), hlevel 13 (by decide), hlevel 21 (by decide), hlevel 29 (by decide), hlevel 37 (by decide),
    hlevel 45 (by decide), hlevel 53 (by decide), hlevel 61 (by decide)]

/-- R85: the samples of WRREG are number 53 of its second, third and fourth stages. -/
theorem wrreg_acknowledged (sa ra d : Byte) {l₁ l₂ l₃ l₄ : List Level} (l₅ : List Level) (h₁ : l₁.length = 8)
    (h₂ : l₂.length = 57) (h₃ : l₃.length = 57) (a₂ : LevelAt l₂ 53 .L) (a₃ : LevelAt l₃ 53 .L)
    (a₄ : LevelAt l₄ 53 .L) : Acknowledged (.wrreg sa ra d) (l₁ ++ (l₂ ++ (l₃ ++ (l₄ ++ l₅)))) := by
  intro k c hc
  obtain ⟨hk, -⟩ := raising_sample hc
  simp only [raisingSamples, List.mem_cons, Prod.mk.injEq, List.not_mem_nil, or_false] at hk
  obtain ⟨rfl, -⟩ | ⟨rfl, -⟩ | ⟨rfl, -⟩ := hk
  · exact levelAt_after h₁ (levelAt_append a₂ _)
  · exact levelAt_after h₁ (levelAt_after h₂ (levelAt_append a₃ _))
  · exact levelAt_after h₁ (levelAt_after h₂ (levelAt_after h₃ (levelAt_append a₄ _)))

/-- R86: the acknowledge samples of RDREG are number 53 of its second, third and fifth stages. -/
theorem rdreg_acknowledged (sa ra : Byte) {l₁ l₂ l₃ l₄ l₅ : List Level} (l₆ : List Level) (h₁ : l₁.length = 8)
    (h₂ : l₂.length = 57) (h₃ : l₃.length = 57) (h₄ : l₄.length = 8) (a₂ : LevelAt l₂ 53 .L) (a₃ : LevelAt l₃ 53 .L)
    (a₅ : LevelAt l₅ 53 .L) : Acknowledged (.rdreg sa ra) (l₁ ++ (l₂ ++ (l₃ ++ (l₄ ++ (l₅ ++ l₆))))) := by
  intro k c hc
  obtain ⟨hk, -⟩ := raising_sample hc
  simp only [raisingSamples, List.mem_cons, Prod.mk.injEq, List.not_mem_nil, or_false] at hk
  obtain ⟨rfl, -⟩ | ⟨rfl, -⟩ | ⟨rfl, -⟩ := hk
  · exact levelAt_after h₁ (levelAt_append a₂ _)
  · exact levelAt_after h₁ (levelAt_after h₂ (levelAt_append a₃ _))
  · exact levelAt_after h₁ (levelAt_after h₂ (levelAt_after h₃ (levelAt_after h₄ (levelAt_append a₅ _))))

/-- Settles O28: both runs in closed form (`execRun_commanded`, `issue_primitives`), the traces by
`commanded_tr_eq_issued`, and the byte of RDREG from the levels of its `ReceiveByte` (`receivedByte_congr`). -/
theorem compositeTracesArePrimitiveSequences : Obligations.CompositeTracesArePrimitiveSequences := by
  refine ⟨fun sa ra d s l₁ l₂ l₃ l₄ l₅ hidle h₁ h₂ h₃ h₄ h₅ a₂ a₃ a₄ => ?_,
    fun sa ra s l₁ l₂ l₃ l₄ l₅ l₆ l₇ hidle h₁ h₂ h₃ h₄ h₅ h₆ h₇ a₂ a₃ a₅ => ?_⟩ <;> simp only [List.append_assoc]
  · have hlength : (l₁ ++ (l₂ ++ (l₃ ++ (l₄ ++ l₅)))).length = 187 := by simp [*]
    have hstages : Primitives [(.start, l₁), (.addr sa .write, l₂), (.txbyte ra, l₃), (.txbyte d, l₄),
        (.stop, l₅)] := by
      simp [Primitives, lengthOf, raisingSamples, *]
    have htr := commanded_tr_eq_issued s hstages (wrreg_ops sa ra d l₁ l₂ l₃ l₄ l₅)
    simp only [List.flatMap_cons, List.flatMap_nil, List.append_nil] at htr
    exact ⟨_, _, execRun_commanded hidle hlength (wrreg_acknowledged sa ra d l₅ h₁ h₂ h₃ a₂ a₃ a₄),
      issue_primitives hstages hidle, htr hlength⟩
  · have hlength : (l₁ ++ (l₂ ++ (l₃ ++ (l₄ ++ (l₅ ++ (l₆ ++ l₇)))))).length = 268 := by simp [*]
    have hstages : Primitives ([(.start, l₁), (.addr sa .write, l₂), (.txbyte ra, l₃), (.start, l₄),
        (.addr sa .read, l₅), (.rxbyte .NACK, l₆)] ++ [(.stop, l₇)]) := by
      simp [Primitives, lengthOf, raisingSamples, *]
    obtain ⟨hbefore, hstop⟩ := List.forall_mem_append.mp hstages
    have htr := commanded_tr_eq_issued s hstages (rdreg_ops sa ra l₁ l₂ l₃ l₄ l₅ l₆ l₇)
    simp only [List.cons_append, List.nil_append, List.flatMap_cons, List.flatMap_nil, List.append_nil] at htr
    obtain ⟨htrxd, htrxv⟩ := commanded_rdreg sa ra s hlength
    obtain ⟨hurxd, hurxv⟩ := commanded_rxbyte .NACK (issued [(.start, l₁), (.addr sa .write, l₂), (.txbyte ra, l₃),
      (.start, l₄), (.addr sa .read, l₅)] s) h₆
    have hbyte := receivedByte_congr (ls := l₁ ++ (l₂ ++ (l₃ ++ (l₄ ++ (l₅ ++ (l₆ ++ l₇)))))) (n := 187) h₆
      fun k v hv => by
        simpa [← Nat.add_assoc] using levelAt_after h₁ (levelAt_after h₂ (levelAt_after h₃ (levelAt_after h₄
          (levelAt_after h₅ (levelAt_append hv l₇)))))
    exact ⟨_, _, _, execRun_commanded hidle hlength (rdreg_acknowledged sa ra _ h₁ h₂ h₃ h₄ a₂ a₃ a₅),
      issue_primitives hbefore hidle, issue_primitives hstop (commanded_busy _ _ _), htr hlength,
      congrArg (0#24 ++ ·) (htrxd.trans (hbyte.trans hurxd.symm)), hurxv, htrxv, commanded_stop_rxv _ h₇⟩

end Sys2Proof.Machine
end

/-! # Pins and wires

The statements of 40_pin_primitives.md on one micro-operation: what it writes and pulls, when a command's step stops,
what a step can change on the wires, and what it sees of the environment. -/

section
namespace Sys2Proof.Machine

open Sys2Proof.Expected

/-! ## The two ways a command's step stops -/

theorem performAt_refused {r : Routine} {s : State} {x : Refusal} :
    performAt r s = .refused x ↔
      x = .readWhileOutput ∧ s.sdaDir = .OUT ∧ ∃ m, r[s.upc]? = some m ∧ m.op = .readDataLine := by
  unfold performAt
  cases hm : r[s.upc]? with
  | none => simp
  | some m =>
    by_cases hread : m.op = .readDataLine ∧ s.sdaDir = .OUT
    · simp [performStep, hread, eq_comm]
    · simp only [performStep_ok hread, reduceCtorEq, false_iff]
      rintro ⟨-, hout, m', hm', hop⟩
      cases hm'
      exact hread ⟨hop, hout⟩

theorem performAt_fault {r : Routine} {s : State} {f : Fault} :
    performAt r s = .fault f ↔ f = .noMicroOperation ∧ r.length ≤ s.upc := by
  unfold performAt
  cases hm : r[s.upc]? with
  | none => simp [List.getElem?_eq_none_iff.mp hm, eq_comm]
  | some m =>
    have hlt := (List.getElem?_eq_some_iff.mp hm).1
    by_cases hread : m.op = .readDataLine ∧ s.sdaDir = .OUT
    · simp [performStep, hread, hlt]
    · simp [performStep_ok hread, hlt]

theorem exec_refused {i : Instr} {s : State} {x : Refusal} :
    exec i s = .refused x ↔
      x = .readWhileOutput ∧ s.sdaDir = .OUT ∧ ∃ m, (routineOf i s.res)[s.upc]? = some m ∧ m.op = .readDataLine := by
  rw [exec_eq_performAt, performAt_refused]

theorem exec_fault {i : Instr} {s : State} {f : Fault} :
    exec i s = .fault f ↔ f = .noMicroOperation ∧ (routineOf i s.res).length ≤ s.upc := by
  rw [exec_eq_performAt, performAt_fault]

/-- Settles O7: each micro-operation writes its own register (`performStep_ok`), the pads follow from the registers. -/
theorem microOperationEffects : Obligations.MicroOperationEffects := by
  intro s
  refine ⟨fun l => ?_, fun l => ?_, fun d => ?_, fun name => ?_, fun hin => ?_, fun hout => ?_, ?_⟩
  · exact performStep_ok (by simp)
  · exact performStep_ok (by simp)
  · exact performStep_ok (by simp)
  · exact performStep_ok (by simp)
  · rw [performStep_ok (by simp [hin]), ← sdaIn_of_in hin]
    rfl
  · simp [performStep, hout]
  · refine ⟨rfl, rfl, rfl, ?_⟩
    simp +contextual [sdaPullLow, dataTo, directionTo]

/-! ## The wires -/

theorem wireLevel_low {pull : Bool} {env : Level} : wireLevel pull env = .L ↔ pull = true ∨ env = .L := by
  cases pull <;> simp [wireLevel]

theorem exec_envScl {i : Instr} {s t : State} (l : Level) (h : exec i s = .next t) :
    exec i { s with envScl := l } = .next { t with envScl := l } := by
  obtain ⟨hcmdr, hrej, hrst, -, -, hagenda, hreads, hwave, hdraws⟩ := exec_outsideKept h
  have := exec_withOutside { s with envScl := l } h
  simpa [withOutside, ← hcmdr, ← hrej, ← hrst, ← hagenda, ← hreads, ← hwave, ← hdraws] using this

/-- Settles O8: the wires by `wireLevel_low`; what `exec` answers depends on `RES`, `UPC` and the direction
(`exec_fault`, `exec_refused`), and a next state by `exec_envScl`. -/
theorem wiresAreWiredAnd : Obligations.WiresAreWiredAnd := by
  refine ⟨fun s => ⟨?_, ?_, rfl⟩, fun i s l => ⟨fun t => exec_envScl l, fun f h => ?_, fun r h => ?_⟩⟩
  · simp [wireScl, wireLevel_low, sclPullLow]
  · simp [wireSda, wireLevel_low, sdaPullLow]
  · obtain ⟨hf, hpast⟩ := exec_fault.mp h
    exact exec_fault.mpr ⟨hf, hpast⟩
  · obtain ⟨hr, hout, hread⟩ := exec_refused.mp h
    exact exec_refused.mpr ⟨hr, hout, hread⟩

/-! ## One step of a command on the pins -/

/-- What a command's step does to the pins and the trace: its one micro-operation's effect (R64 to R68). -/
theorem exec_microOp {i : Instr} {s t : State} (h : exec i s = .next t) :
    ∃ m, (ops (routineOf i s.res))[s.upc]? = some m ∧ t.pins = s.pins.after m ∧
      t.tr = s.tr ++ [eventOf (sdaIn s) m] := by
  obtain ⟨m, hm, -, rfl⟩ := exec_next.mp h
  refine ⟨m.op, by simp [hm], ?_⟩
  split <;> exact ⟨stepped_pins m s, stepped_tr m s⟩

/-- The micro-operation at `UPC` is performed, if it is no read with direction OUT. -/
theorem exec_performs {i : Instr} {s : State} {m : MicroOp} (hm : (ops (routineOf i s.res))[s.upc]? = some m)
    (hread : m = .readDataLine → s.sdaDir = .IN) : ∃ t, exec i s = .next t ∧ t.pins = s.pins.after m := by
  obtain ⟨n, hn, rfl⟩ : ∃ n, (routineOf i s.res)[s.upc]? = some n ∧ n.op = m := by simpa using hm
  have hvalid : ¬(n.op = .readDataLine ∧ s.sdaDir = .OUT) := by
    rintro ⟨hop, hout⟩
    cases (hread hop).symm.trans hout
  refine ⟨_, exec_next.mpr ⟨n, hn, hvalid, rfl⟩, ?_⟩
  split <;> exact stepped_pins n s

/-- Settles O9: by cases on the micro-operation of the step. -/
theorem onePinRegisterPerStep : Obligations.OnePinRegisterPerStep := by
  intro i s t h
  obtain ⟨m, -, hpins, htr⟩ := exec_microOp h
  obtain ⟨-, -, -, hscl, hsda, -⟩ := exec_outsideKept h
  cases m
  all_goals
    obtain ⟨hclock, hdata, hdir⟩ := Pins.mk.inj hpins
    simp [State.pins, wireScl, wireSda, sclPullLow, sdaPullLow, hclock, hdata, hdir, hscl, hsda, htr, eventOf]

/-! ## What the environment holds on the data wire -/

/-- A micro-operation that is no read does the same whatever the environment holds: none of its writes takes a level. -/
theorem stepped_holdSda_of_not_read {m : MicroStep} (l : Level) (s : State) (hop : m.op ≠ .readDataLine)
    (hlevels : ∀ e ∈ m.effects, e.takesLevel → m.op = .readDataLine) :
    stepped m (holdSda l s) = holdSda l (stepped m s) := by
  have hl := stepped_holdSda (l := l) (s := s) (fun hread => absurd hread hop) hlevels
  have hs := stepped_holdSda (l := s.envSda) (s := s) (fun hread => absurd hread hop) hlevels
  have hwrites : m.effects.foldl (applyEffect l) s = m.effects.foldl (applyEffect s.envSda) s :=
    List.foldl_ext _ _ s fun u e he => applyEffect_of_no_level (fun ht => hop (hlevels e he ht)) l s.envSda u
  calc stepped m (holdSda l s)
      = holdSda l (stepped m (holdSda s.envSda s)) := by
        rw [hl, hs, hwrites, eventOf_of_not_read hop l s.envSda]
        rfl
    _ = holdSda l (stepped m s) := rfl

/-- Settles O47: a step that appends no `RD` event is no read, and `stepped_holdSda_of_not_read`. -/
theorem environmentSeenOnlyByReads : Obligations.EnvironmentSeenOnlyByReads := by
  intro i s t u l ht hu hnoread
  obtain ⟨m, hm, -, rfl⟩ := exec_next.mp ht
  obtain ⟨m', hm', -, rfl⟩ := exec_next.mp hu
  obtain rfl : m = m' := Option.some.inj (hm.symm.trans hm')
  have hop : m.op ≠ .readDataLine := by
    intro hread
    refine hnoread (sdaIn s) ?_
    split <;> simp [hread, eventOf]
  rw [stepped_holdSda_of_not_read l s hop (routineOf_levelsAtReads i s.res m (List.mem_of_getElem? hm))]
  rw [apply_ite (holdSda l)]
  rfl

/-! ## The reads of the composite commands (R85, R86) -/

theorem exists_of_mem_effectsFrom {r : Routine} {n k : Nat} {e : Effect} (h : (k, e) ∈ effectsFrom n r) :
    ∃ j m, k = n + j ∧ r[j]? = some m ∧ e ∈ m.effects := by
  induction r generalizing n with
  | nil => cases h
  | cons m r ih =>
    rw [effectsFrom, List.mem_append] at h
    obtain hhere | hlater := h
    · obtain ⟨e', he, heq⟩ := List.mem_map.mp hhere
      cases heq
      exact ⟨0, m, rfl, rfl, he⟩
    · obtain ⟨j, m', rfl, hm, he⟩ := ih hlater
      exact ⟨j + 1, m', by omega, hm, he⟩

/-- Where a write stands that takes a level, the command reads the data line; with direction OUT it is refused (R67). -/
theorem exec_refused_of_takesLevel {i : Instr} {s : State} {e : Effect} (hout : s.sdaDir = .OUT)
    (he : (s.upc, e) ∈ effectsOf i s.res) (hlevel : e.takesLevel) : exec i s = .refused .readWhileOutput := by
  rw [← routineOf_effects] at he
  obtain ⟨j, m, hj, hm, hmem⟩ := exists_of_mem_effectsFrom he
  rw [Nat.zero_add] at hj
  subst hj
  exact exec_refused.mpr ⟨rfl, hout, m, hm, routineOf_levelsAtReads i s.res m (List.mem_of_getElem? hm) e hmem hlevel⟩

theorem wrregReads_take_level (sa ra d : Byte) {res : ResultCode} {k : Nat} (h : k ∈ wrregReads res) :
    ∃ e, (k, e) ∈ effectsOf (.wrreg sa ra d) res ∧ e.takesLevel := by
  revert k
  cases res <;> simp [wrregReads, effectsOf, Effect.takesLevel]

theorem rdregReads_take_level (sa ra : Byte) {res : ResultCode} {k : Nat} (h : k ∈ rdregReads res) :
    ∃ e, (k, e) ∈ effectsOf (.rdreg sa ra) res ∧ e.takesLevel := by
  revert k
  cases res <;> simp [rdregReads, rdregDataReads, effectsOf, Effect.takesLevel]

/-- Settles O20: at every read offset stands a write that takes a level, so `exec_refused_of_takesLevel`. -/
theorem compositeReadWhileOutputIsRefused : Obligations.CompositeReadWhileOutputIsRefused := by
  intro sa ra d s hout
  constructor
  · intro hread
    obtain ⟨e, he, hlevel⟩ := wrregReads_take_level sa ra d hread
    exact exec_refused_of_takesLevel hout he hlevel
  · intro hread
    obtain ⟨e, he, hlevel⟩ := rdregReads_take_level sa ra hread
    exact exec_refused_of_takesLevel hout he hlevel

end Sys2Proof.Machine
end

/-! # Commands as the observer sees them

The statements of 40_pin_primitives.md on bus events (R71): the events that the conditions and the bytes add, from what
each move of the sequencer or of the environment adds (`View.move`). -/

section
namespace Sys2Proof.Machine

open Sys2Proof.Expected

/-! ## What the observer has of a state -/

/-- The pins, what the environment holds on the data wire, the bit group and the events so far: with a clock wire that
the environment leaves released, what a step adds to the bus events depends on nothing else. -/
structure View where
  pins : Pins
  envSda : Level
  bits : List Bool
  events : List BusEvent

def viewOf (s : State) : View := ⟨s.pins, s.envSda, bitGroup s.wave, busEvents s.wave⟩

/-- The wires that pins make, the environment holding `l` on the data wire and nothing on the clock wire. -/
def Pins.wires (p : Pins) (l : Level) : WireState := (p.scl, if p.dir = .OUT ∧ p.sda = .L then .L else l)

/-- One look at the wires that pins `p` and the environment's level `l` make. -/
def View.look (v : View) (p : Pins) (l : Level) : View :=
  let e := busEdge (v.pins.wires v.envSda) (p.wires l) v.bits
  ⟨p, l, e.2, v.events ++ e.1⟩

/-- What can change the wires: a micro-operation, or the environment taking a level on the data wire. -/
inductive Move where
  | perform (m : MicroOp)
  | hold (l : Level)

def Move.turn : Move → Turn
  | .perform _ => .sequencer
  | .hold l => .envSda l

/-- The micro-operations among the moves. -/
def microOps : List Move → List MicroOp
  | [] => []
  | .perform m :: ms => m :: microOps ms
  | .hold _ :: ms => microOps ms

def View.move (v : View) : Move → View
  | .perform m => v.look (v.pins.after m) v.envSda
  | .hold l => v.look v.pins l

/-! What one look adds, by what has moved on the wires (R71). -/

section
variable (p : Pins) (sda : Level) (dir : Dir) (l : Level) (bits : List Bool) (events : List BusEvent)

@[simp] theorem View.look_still : (⟨p, l, bits, events⟩ : View).look p l = ⟨p, l, bits, events⟩ := by
  simp [View.look]

/-- Nothing is taken while the clock is low, nor when it falls. -/
@[simp] theorem View.look_low (v : View) : v.look ⟨.L, sda, dir⟩ l = ⟨⟨.L, sda, dir⟩, l, v.bits, v.events⟩ := by
  simp [View.look, Pins.wires, busEdge]

@[simp] theorem View.look_rise (hbits : bits.length < 8) :
    (⟨⟨.L, sda, dir⟩, l, bits, events⟩ : View).look ⟨.H, sda, dir⟩ l =
      ⟨⟨.H, sda, dir⟩, l, bits ++ [bitOf (Pins.wires ⟨.H, sda, dir⟩ l).2], events⟩ := by
  simp [View.look, Pins.wires, busEdge, Nat.ne_of_lt hbits]

@[simp] theorem View.look_ninth_rise (hbits : bits.length = 8) :
    (⟨⟨.L, sda, dir⟩, l, bits, events⟩ : View).look ⟨.H, sda, dir⟩ l =
      ⟨⟨.H, sda, dir⟩, l, [], events ++ [byteEvent (bits ++ [bitOf (Pins.wires ⟨.H, sda, dir⟩ l).2])]⟩ := by
  simp [View.look, Pins.wires, busEdge, hbits]

@[simp] theorem View.look_start :
    (⟨⟨.H, .H, .OUT⟩, .H, bits, events⟩ : View).look ⟨.H, .L, .OUT⟩ .H =
      ⟨⟨.H, .L, .OUT⟩, .H, [], events ++ [.START]⟩ := rfl

@[simp] theorem View.look_stop :
    (⟨⟨.H, .L, .OUT⟩, .H, bits, events⟩ : View).look ⟨.H, .H, .OUT⟩ .H =
      ⟨⟨.H, .H, .OUT⟩, .H, [], events ++ [.STOP]⟩ := rfl

/-- While the environment and the block both leave the data line released, the pins may move unseen. -/
theorem View.look_released {p q : Pins} (hclock : q.scl = p.scl) (hp : ¬(p.dir = .OUT ∧ p.sda = .L))
    (hq : ¬(q.dir = .OUT ∧ q.sda = .L)) :
    (⟨p, .H, bits, events⟩ : View).look q .H = ⟨q, .H, bits, events⟩ := by
  simp [View.look, Pins.wires, hclock, hp, hq]

end

theorem wires_eq_pins_wires {s : State} (hscl : s.envScl = .H) : wires s = s.pins.wires s.envSda := by
  simp only [wires, wireScl, wireSda, wireLevel, sclPullLow, sdaPullLow, hscl, Pins.wires, State.pins,
    decide_eq_true_eq]
  cases s.sclOut <;> rfl

/-- The observer's look at a state in which pins and environment have moved, from a record that ends in the wires of
`s`. -/
theorem viewOf_observe {s u : State} (hseen : s.wave.getLast? = some (wires s)) (hwave : u.wave = s.wave)
    (hscl : s.envScl = .H) (huscl : u.envScl = .H) :
    viewOf (observe u) = (viewOf s).look u.pins u.envSda := by
  rw [← hwave, wires_eq_pins_wires hscl] at hseen
  obtain ⟨hevents, hbits, -⟩ := observe_adds hseen
  rw [wires_eq_pins_wires huscl, hwave] at hevents hbits
  simp [viewOf, View.look, hevents, hbits]

/-! ## A command under a schedule, the observer looking on -/

theorem succ_eq_length_iff {r : Routine} {k : Nat} {m : MicroOp} (hm : (ops r)[k]? = some m) :
    k + 1 = r.length ↔ (ops r).drop (k + 1) = [] := by
  have hlt : k < (ops r).length := (List.getElem?_eq_some_iff.mp hm).1
  rw [List.drop_eq_nil_iff, ← List.length_map (f := MicroStep.op) (as := r)]
  exact ⟨Nat.le_of_eq ∘ Eq.symm, Nat.le_antisymm hlt⟩

/-- `s` is about to make the moves `ms`: they are its schedule, and their micro-operations are what is left of the
running command's routine `r`, whatever its samples find. -/
structure Scheduled (r : Routine) (ms : List Move) (s : State) : Prop where
  rst : s.rst = false
  command : ∃ i, decode s.cmdr = .ok i ∧ ∀ res, routineOf i res = r
  clock : s.envScl = .H
  agenda : s.agenda = ms.map Move.turn
  todo : (ops r).drop s.upc = microOps ms
  busy : s.busy = true ↔ microOps ms ≠ []
  reads : readsIn s.sdaDir (microOps ms) = true
  seen : s.wave.getLast? = some (wires s)

namespace Scheduled

variable {r : Routine} {ms : List Move} {s : State}

theorem hold {l : Level} (h : Scheduled r (.hold l :: ms) s) :
    ∃ t, step s = .next t ∧ Scheduled r ms t ∧ viewOf t = (viewOf s).move (.hold l) := by
  refine ⟨envSdaTurn l { s with agenda := ms.map Move.turn }, step_scheduled h.agenda, ?_, ?_⟩
  · exact ⟨h.rst, h.command, h.clock, rfl, h.todo, h.busy, h.reads, observe_observed _⟩
  · exact viewOf_observe (u := { s with agenda := ms.map Move.turn, envSda := l }) h.seen rfl h.clock h.clock

theorem perform {m : MicroOp} (h : Scheduled r (.perform m :: ms) s) :
    ∃ t, step s = .next t ∧ Scheduled r ms t ∧ viewOf t = (viewOf s).move (.perform m) := by
  obtain ⟨i, hdecode, hroutine⟩ := h.command
  have hm : (ops r)[s.upc]? = some m := by rw [← List.head?_drop, h.todo]; rfl
  have hrest : (ops r).drop (s.upc + 1) = microOps ms := by rw [← List.tail_drop, h.todo]; rfl
  have hlast : s.upc + 1 = (routineOf i s.res).length ↔ microOps ms = [] := by
    rw [hroutine, ← hrest]
    exact succ_eq_length_iff hm
  have hbusy : s.busy = true := h.busy.mpr (List.cons_ne_nil _ _)
  obtain ⟨hread, hreads⟩ := (Bool.and_eq_true _ _).mp h.reads
  obtain ⟨u, hexec, hpins⟩ := exec_performs (i := i) (s := { s with agenda := ms.map Move.turn })
    (by rw [hroutine]; exact hm) (of_decide_eq_true hread)
  have hdir : u.sdaDir = dirAfter s.sdaDir [m] := (congrArg Pins.dir hpins).trans (pins_after_dir _ _)
  obtain ⟨hcmdr, -, hrst, hscl, hsda, hagenda, -, hwave, -⟩ := exec_outsideKept hexec
  obtain ⟨hcompletes, hgoesOn⟩ := exec_completesAt hexec
  refine ⟨observe u, ?_, ⟨?_, ⟨i, ?_, hroutine⟩, ?_, ?_, ?_, ?_, ?_, observe_observed u⟩, ?_⟩
  · rw [step_scheduled h.agenda]
    exact sequencerTurn_runs h.rst hbusy hdecode hexec
  · simpa [hrst] using h.rst
  · simpa [hcmdr] using hdecode
  · simpa [hscl] using h.clock
  · simpa using hagenda
  · simpa [exec_upc hexec] using hrest
  · by_cases hmore : microOps ms = []
    · simp [hmore, (hcompletes (hlast.mpr hmore)).1]
    · simpa [hmore, (hgoesOn (mt hlast.mp hmore)).1] using hbusy
  · rw [observe_sdaDir, hdir]
    exact hreads
  · rw [viewOf_observe h.seen hwave h.clock (hscl.trans h.clock), hpins, hsda]
    rfl

/-- A whole schedule: by induction on the moves. -/
theorem run (h : Scheduled r ms s) :
    ∃ t, runSteps ms.length s = .next t ∧ Scheduled r [] t ∧ viewOf t = ms.foldl View.move (viewOf s) := by
  induction ms generalizing s with
  | nil => exact ⟨s, rfl, h, rfl⟩
  | cons a ms ih =>
    obtain ⟨u, hstep, hu, hview⟩ : ∃ u, step s = .next u ∧ Scheduled r ms u ∧ viewOf u = (viewOf s).move a := by
      cases a with
      | perform m => exact h.perform
      | hold l => exact h.hold
    obtain ⟨t, hrun, ht, hviews⟩ := ih hu
    exact ⟨t, (runSteps_succ hstep).trans hrun, ht, by rw [hviews, hview, List.foldl_cons]⟩

end Scheduled

/-- A command from its first micro-operation to its end, on a schedule whose moves leave no bit group and add
`events`. -/
theorem showed_of_moves {i : Instr} {r : Routine} {ms : List Move} {s : State} {events : List BusEvent}
    (hfirst : AtFirstOp s) (hdecode : decode s.cmdr = .ok i) (hroutine : ∀ res, routineOf i res = r)
    (hagenda : s.agenda = ms.map Move.turn) (hops : ops r = microOps ms)
    (hbits : (ms.foldl View.move (viewOf s)).bits = [])
    (hevents : (ms.foldl View.move (viewOf s)).events = busEvents s.wave ++ events) :
    ∃ t, runSteps ms.length s = .next t ∧ Showed events s t := by
  obtain ⟨hrst, hbusy, hupc, -, hscl, -, hseen⟩ := hfirst
  have hmore : microOps ms ≠ [] := by
    have hlen : (ops r).length = lengthOf i .OK := by rw [← hroutine .OK, ops, List.length_map, routineOf_length]
    rw [← hops]
    exact List.ne_nil_of_length_pos (hlen ▸ lengthOf_pos i .OK)
  have hstart : Scheduled r ms s := {
    rst := hrst
    command := ⟨i, hdecode, hroutine⟩
    clock := hscl
    agenda := hagenda
    todo := by rw [hupc, List.drop_zero, hops]
    busy := iff_of_true hbusy hmore
    reads := by rw [← hops, ← hroutine .OK]; exact routineOf_readsIn i .OK _
    seen := hseen }
  obtain ⟨t, hrun, hend, hview⟩ := hstart.run
  rw [← hview] at hbits hevents
  exact ⟨t, hrun, by simpa [microOps] using hend.busy, hevents, hbits, hend.seen⟩

/-! ## START and STOP -/

/-- The moves of a routine while the environment keeps still. -/
def movesOf (r : Routine) : List Move := (ops r).map .perform

/-- The wires of pins that are released under a high clock do not show the first two micro-operations of `Start()`;
under a low clock nothing shows until it rises (R80). -/
theorem start_moves {p : Pins} {bits : List Bool} (events : List BusEvent) (hsafe : p.idleSafe)
    (hbits : bits.length < 8) :
    (movesOf startRoutine).foldl View.move ⟨p, .H, bits, events⟩ =
      ⟨pinsAfter startRoutine p, .H, [], events ++ [.START]⟩ := by
  obtain ⟨c, d, r⟩ := p
  cases c with
  | L => simp [movesOf, ops, startRoutine, View.move, Pins.after, hbits]
  | H =>
    have hreleased : ¬(r = .OUT ∧ d = .L) := by simpa [Pins.idleSafe] using hsafe
    simp [movesOf, ops, startRoutine, View.move, Pins.after, View.look_released, hreleased]

/-- `Stop()` begins under a low clock (R81). -/
theorem stop_moves (p : Pins) {bits : List Bool} (events : List BusEvent) (hbits : bits.length < 8) :
    (movesOf stopRoutine).foldl View.move ⟨p, .H, bits, events⟩ =
      ⟨pinsAfter stopRoutine p, .H, [], events ++ [.STOP]⟩ := by
  simp [movesOf, ops, stopRoutine, View.move, Pins.after, hbits]

theorem viewOf_of_atFirstOp {s : State} (h : AtFirstOp s) :
    viewOf s = ⟨s.pins, .H, bitGroup s.wave, busEvents s.wave⟩ := by
  obtain ⟨-, -, -, -, -, hsda, -⟩ := h
  rw [viewOf, hsda]

/-- Settles O58: the eight moves of each routine (`start_moves`, `stop_moves`) under the schedule. -/
theorem conditionsShowOnTheWires : Obligations.ConditionsShowOnTheWires := by
  intro s hfirst hbits hagenda
  have ⟨_, _, _, hsafe, _⟩ := hfirst
  refine ⟨fun hdecode => ?_, fun hdecode => ?_⟩
  · have hmoves := start_moves (busEvents s.wave) hsafe hbits
    rw [← viewOf_of_atFirstOp hfirst] at hmoves
    exact showed_of_moves (ms := movesOf startRoutine) hfirst hdecode (fun _ => rfl) hagenda rfl
      (by rw [hmoves]) (by rw [hmoves])
  · have hmoves := stop_moves s.pins (busEvents s.wave) hbits
    rw [← viewOf_of_atFirstOp hfirst] at hmoves
    exact showed_of_moves (ms := movesOf stopRoutine) hfirst hdecode (fun _ => rfl) hagenda rfl
      (by rw [hmoves]) (by rw [hmoves])

/-! ## Bytes -/

/-- From every view of `Q` that has taken fewer than eight bits, the moves `ms` add the bit `b` and no event. -/
def AddsBit (Q : View → Prop) (ms : List Move) (b : Bool) : Prop :=
  ∀ v, Q v → v.bits.length < 8 →
    Q (ms.foldl View.move v) ∧ (ms.foldl View.move v).bits = v.bits ++ [b] ∧ (ms.foldl View.move v).events = v.events

/-- From every view of `Q` that has taken eight bits, the moves `ms` end the group with the acknowledge bit `b`. -/
def EndsByte (Q : View → Prop) (ms : List Move) (b : Bool) : Prop :=
  ∀ v, Q v → v.bits.length = 8 →
    (ms.foldl View.move v).bits = [] ∧ (ms.foldl View.move v).events = v.events ++ [byteEvent (v.bits ++ [b])]

section
variable {α : Type} {Q : View → Prop} {moves : α → List Move} {bit : α → Bool} {l : List α} {v : View}

theorem bits_added (hbit : ∀ a, AddsBit Q (moves a) (bit a)) (hv : Q v) (hroom : v.bits.length + l.length ≤ 8) :
    Q ((l.flatMap moves).foldl View.move v) ∧
      ((l.flatMap moves).foldl View.move v).bits = v.bits ++ l.map bit ∧
      ((l.flatMap moves).foldl View.move v).events = v.events := by
  induction l generalizing v with
  | nil => simp [hv]
  | cons a l ih =>
    rw [List.length_cons] at hroom
    obtain ⟨hQ, hbits, hevents⟩ := hbit a v hv (by omega)
    obtain ⟨hQ', hbits', hevents'⟩ := ih hQ (by rw [hbits, List.length_append, List.length_singleton]; omega)
    rw [List.flatMap_cons, List.foldl_append]
    exact ⟨hQ', by rw [hbits', hbits, List.append_assoc]; rfl, hevents'.trans hevents⟩

/-- Eight bits and an acknowledge on an empty bit group are one BYTE event (R71). -/
theorem byte_added {ack : List Move} {b : Bool} (hbit : ∀ a, AddsBit Q (moves a) (bit a)) (hack : EndsByte Q ack b)
    (hlength : l.length = 8) (hv : Q v) (hempty : v.bits = []) :
    ((l.flatMap moves ++ ack).foldl View.move v).bits = [] ∧
      ((l.flatMap moves ++ ack).foldl View.move v).events =
        v.events ++ [.BYTE ((l.map bit).foldl shiftIn 0#8) (ackOfBit b)] := by
  obtain ⟨hQ, hbits, hevents⟩ := bits_added hbit hv (l := l) (by simp [hempty, hlength])
  rw [hempty, List.nil_append] at hbits
  obtain ⟨hend, hadded⟩ := hack _ hQ (by simp [hbits, hlength])
  rw [List.foldl_append]
  exact ⟨hend, by simp [hadded, hevents, hbits, byteEvent, hlength]⟩

end

/-! ### A transmitted byte (R75) -/

/-- The ack phase of a transmitted byte and a slave that answers `a`, holding it from the micro-operation that gives it
the line to the one that ends the ninth pulse (95_test_vectors.md section 0). -/
def answeredAck (a : Level) : List Move :=
  movesOf ((sampleAckPhase none).take 2) ++ [.hold a] ++ movesOf (((sampleAckPhase none).drop 2).take 6) ++
    [.hold .H] ++ movesOf ((sampleAckPhase none).drop 8)

/-- A byte sent to a slave that answers `a`. -/
def answeredByte (x : Byte) (a : Level) : List Move :=
  (msbFirst.flatMap fun j => movesOf (transmitBit (x.getLsbD j))) ++ answeredAck a

theorem turns_answeredByte (x : Byte) (a : Level) : (answeredByte x a).map Move.turn = answeringSlave a := rfl

theorem microOps_answeredByte (x : Byte) (a : Level) : microOps (answeredByte x a) = ops (transmitByte none x) := rfl

theorem transmitBit_addsBit (b : Bool) : AddsBit (·.envSda = .H) (movesOf (transmitBit b)) b := by
  rintro ⟨p, l, bits, events⟩ rfl hbits
  cases b <;> simp [movesOf, ops, transmitBit, lvl, View.move, Pins.after, Pins.wires, bitOf, hbits]

theorem answeredAck_endsByte (a : Level) : EndsByte (·.envSda = .H) (answeredAck a) (bitOf a) := by
  rintro ⟨p, l, bits, events⟩ rfl hbits
  simp [answeredAck, movesOf, ops, sampleAckPhase, View.move, Pins.after, Pins.wires, hbits]

/-! ### A received byte (R77) -/

/-- A bit received from a slave that sets up `l` while the clock is low (95_test_vectors.md section 0). -/
def givenBit (l : Level) : List Move :=
  movesOf (receiveBit.take 3) ++ [.hold l] ++ movesOf (receiveBit.drop 3)

/-- The slave releases the line and the master gives its acknowledge. -/
def drivenAck (p : AckFlag) : List Move := .hold .H :: movesOf (driveAckPhase p)

/-- A received byte from a slave that gives `bits`. -/
def givenByte (bits : List Level) (p : AckFlag) : List Move := bits.flatMap givenBit ++ drivenAck p

theorem turns_givenByte (bits : List Level) (p : AckFlag) : (givenByte bits p).map Move.turn = sendingSlave bits := by
  rw [givenByte, List.map_append, List.map_flatMap, sendingSlave, List.append_assoc]
  rfl

theorem microOps_givenByte {bits : List Level} (p : AckFlag) (h : bits.length = 8) :
    microOps (givenByte bits p) = ops (receiveByte p) := by
  match bits, h with
  | [_, _, _, _, _, _, _, _], _ => rfl

/-- After its first bit a received byte has the clock low between its bits. -/
def View.betweenBits (v : View) : Prop := v.bits = [] ∨ v.pins.scl = .L

theorem givenBit_addsBit (l : Level) : AddsBit View.betweenBits (givenBit l) (bitOf l) := by
  rintro ⟨p, l', bits, events⟩ - hbits
  simp [givenBit, movesOf, ops, receiveBit, View.move, Pins.after, Pins.wires, View.betweenBits, hbits]

theorem drivenAck_endsByte (a : AckFlag) : EndsByte View.betweenBits (drivenAck a) a.toBit := by
  rintro ⟨⟨c, d, r⟩, l, bits, events⟩ hbetween hbits
  obtain rfl | rfl := hbetween
  · cases hbits
  · cases a <;>
      simp [drivenAck, movesOf, ops, driveAckPhase, View.move, Pins.after, Pins.wires, bitOf, AckFlag.toBit,
        lvlOfPolicy, lvl, hbits]

/-! ### The byte of eight bits -/

theorem shiftIn_ofNat (n : Nat) (b : Bool) : shiftIn (BitVec.ofNat 8 n) b = BitVec.ofNat 8 (2 * n + b.toNat) := by
  have hb : b.toNat < 2 ^ 1 := b.toNat_lt
  apply BitVec.eq_of_toNat_eq
  rw [shiftIn, BitVec.toNat_append, BitVec.toNat_ofBool, ← Nat.shiftLeft_add_eq_or_of_lt hb]
  simp only [BitVec.extractLsb'_toNat, BitVec.toNat_ofNat, Nat.shiftRight_zero, Nat.shiftLeft_eq]
  omega

theorem foldl_shiftIn_levels (n : Nat) (bits : List Level) :
    (bits.map bitOf).foldl shiftIn (BitVec.ofNat 8 n) =
      BitVec.ofNat 8 (bits.foldl (fun n l => 2 * n + (if l = .H then 1 else 0)) n) := by
  induction bits generalizing n with
  | nil => rfl
  | cons l bits ih =>
    rw [List.map_cons, List.foldl_cons, List.foldl_cons, shiftIn_ofNat, ih]
    cases l <;> rfl

theorem addrByte_eq (sa : Byte) (dir : Access) : addrByte sa dir = addressByteOf sa dir := by
  cases dir <;> (revert sa; decide)

/-- R82: TXBYTE and ADDR run the same routine. -/
theorem routineOf_sends {i : Instr} {x : Byte} (h : Sends i x) (res : ResultCode) :
    routineOf i res = transmitByte none x := by
  obtain rfl | ⟨sa, dir, rfl, rfl⟩ := h
  · rfl
  · rw [← addrByte_eq]
    rfl

theorem foldl_shiftIn_msbFirst (x : Byte) : (msbFirst.map x.getLsbD).foldl shiftIn 0#8 = x := by
  revert x
  decide

/-- Settles O59: the moves of each byte command are eight bits and an acknowledge (`byte_added`). -/
theorem bytesShowOnTheWires : Obligations.BytesShowOnTheWires := by
  intro s hfirst hempty
  have hsda : (viewOf s).envSda = .H := congrArg View.envSda (viewOf_of_atFirstOp hfirst)
  constructor
  · intro i x a hsends hdecode hagenda
    obtain ⟨hbits, hevents⟩ := byte_added (fun j => transmitBit_addsBit (x.getLsbD j)) (answeredAck_endsByte a)
      (l := msbFirst) rfl (v := viewOf s) hsda hempty
    rw [foldl_shiftIn_msbFirst] at hevents
    have hack : ackOfBit (bitOf a) = ackOf a := by cases a <;> rfl
    rw [hack] at hevents
    exact showed_of_moves hfirst hdecode (routineOf_sends hsends) (hagenda.trans (turns_answeredByte x a).symm)
      (microOps_answeredByte x a).symm hbits hevents
  · intro p bits hlength hdecode hagenda
    obtain ⟨hbits, hevents⟩ := byte_added givenBit_addsBit (drivenAck_endsByte p) hlength (v := viewOf s)
      (.inl hempty) hempty
    have hack : ackOfBit p.toBit = p := by cases p <;> rfl
    rw [foldl_shiftIn_levels 0, hack] at hevents
    have hcount : (givenByte bits p).length = 82 := by
      rw [← List.length_map (f := Move.turn), turns_givenByte]
      simp [sendingSlave, sequencerTurns, hlength]
    rw [← hcount]
    exact showed_of_moves hfirst hdecode (fun _ => rfl) (hagenda.trans (turns_givenByte bits p).symm)
      (microOps_givenByte p hlength).symm hbits hevents

end Sys2Proof.Machine
end

/-! # Bit and byte transfer

The statements of 41_bit_byte_transfer.md: the micro-operations of a transmitted and of a received byte by offset, what
the byte commands leave unchanged, their whole runs, and where the data line may move under a high clock. -/

section
namespace Sys2Proof.Machine

open Sys2Proof.Expected

/-! ## The micro-operation at an offset (R24) -/

section
variable {i : Instr} {r : Routine} {s : State} {m : MicroStep}

/-- The micro-operation at `UPC`, if it is no read with direction OUT. -/
theorem exec_of_step (hr : routineOf i s.res = r) (hm : r[s.upc]? = some m)
    (hread : m.op = .readDataLine → s.sdaDir = .IN) :
    exec i s = .next (if s.upc + 1 = r.length then complete (stepped m s) else stepped m s) := by
  refine exec_next.mpr ⟨m, hr ▸ hm, ?_, by rw [hr]⟩
  rintro ⟨hop, hout⟩
  cases (hread hop).symm.trans hout

/-- A micro-operation before the last leaves the command running. -/
theorem exec_middle (hr : routineOf i s.res = r) (hm : r[s.upc]? = some m)
    (hread : m.op = .readDataLine → s.sdaDir = .IN) (hmore : s.upc + 1 ≠ r.length) :
    exec i s = .next (stepped m s) := by
  rw [exec_of_step hr hm hread, if_neg hmore]

/-- The last micro-operation completes the command in its step (R17, R62). -/
theorem exec_last (hr : routineOf i s.res = r) (hm : r[s.upc]? = some m)
    (hread : m.op = .readDataLine → s.sdaDir = .IN) (hlast : s.upc + 1 = r.length) :
    exec i s = .next (complete (stepped m s)) := by
  rw [exec_of_step hr hm hread, if_pos hlast]

end

/-- Pieces of one length, one after another: offset `k` of piece `j`. -/
theorem getElem?_flatMap_of_length {α β : Type} {f : α → List β} {n : Nat} (hn : ∀ a, (f a).length = n) {l : List α}
    {j k : Nat} {a : α} {b : β} (ha : l[j]? = some a) (hb : (f a)[k]? = some b) :
    (l.flatMap f)[n * j + k]? = some b := by
  induction l generalizing j with
  | nil => simp at ha
  | cons a' l ih =>
    rw [List.flatMap_cons]
    cases j with
    | zero =>
      obtain rfl : a' = a := by simpa using ha
      rw [Nat.mul_zero, Nat.zero_add, List.getElem?_append_left (List.getElem?_eq_some_iff.mp hb).1, hb]
    | succ j =>
      rw [List.getElem?_append_right (by rw [hn, Nat.mul_succ]; omega), hn,
        show n * (j + 1) + k - n = n * j + k by rw [Nat.mul_succ]; omega]
      exact ih ha

theorem msbFirst_getElem? : ∀ j < 8, msbFirst[j]? = some (7 - j) := by decide

/-! ### A transmitted byte (R74, R75) -/

theorem transmitByte_bit (c : Option ResultCode) {x : Byte} {j k : Nat} {m : MicroStep} (hj : j < 8)
    (hm : (transmitBit (x.getLsbD (7 - j)))[k]? = some m) : (transmitByte c x)[6 * j + k]? = some m := by
  have hbits := getElem?_flatMap_of_length (n := 6) (f := fun i => transmitBit (x.getLsbD i)) (fun _ => rfl)
    (msbFirst_getElem? j hj) hm
  rw [transmitByte, List.getElem?_append_left (List.getElem?_eq_some_iff.mp hbits).1, hbits]

theorem transmitByte_ack (c : Option ResultCode) (x : Byte) (k : Nat) :
    (transmitByte c x)[48 + k]? = (sampleAckPhase c)[k]? := by
  rw [transmitByte, List.getElem?_append_right (Nat.le_add_right 48 k)]
  exact congrArg ((sampleAckPhase c)[·]?) (Nat.add_sub_cancel_left 48 k)

/-- Settles O12: micro-operation `k` of bit `j` stands at offset `6 * j + k` (`transmitByte_bit`), and
none of them is the last (`exec_middle`). -/
theorem transmittedBitsMicroOperations : Obligations.TransmittedBitsMicroOperations := by
  intro i x s j hsends hj
  have performs {k : Nat} {m : MicroStep} (hm : (transmitBit (x.getLsbD (7 - j)))[k]? = some m)
      (hop : m.op ≠ .readDataLine) (hupc : s.upc = 6 * j + k) : exec i s = .next (stepped m s) := by
    have hk : k < 6 := (List.getElem?_eq_some_iff.mp hm).1
    refine exec_middle (routineOf_sends hsends s.res) (hupc ▸ transmitByte_bit none hj hm) (absurd · hop) ?_
    rw [transmitByte_length]
    omega
  exact ⟨performs (k := 0) rfl nofun, performs (k := 1) rfl nofun, performs (k := 2) rfl nofun,
    performs (k := 3) rfl nofun, performs (k := 4) rfl nofun, performs (k := 5) rfl nofun⟩

/-- Settles O13: micro-operation `k` of the ack phase stands at offset `48 + k` (`transmitByte_ack`); number 5 reads the
acknowledge, number 8 completes. -/
theorem transmitAckMicroOperations : Obligations.TransmitAckMicroOperations := by
  intro i x s hsends
  have hr := routineOf_sends hsends s.res
  have at_offset {k : Nat} {m : MicroStep} (hm : (sampleAckPhase none)[k]? = some m) (hupc : s.upc = 48 + k) :
      (transmitByte none x)[s.upc]? = some m := by rw [hupc, transmitByte_ack, hm]
  have performs {k : Nat} {m : MicroStep} (hm : (sampleAckPhase none)[k]? = some m) (hk : k ≠ 8)
      (hread : m.op = .readDataLine → s.sdaDir = .IN) (hupc : s.upc = 48 + k) : exec i s = .next (stepped m s) :=
    exec_middle hr (at_offset hm hupc) hread (by rw [transmitByte_length]; omega)
  refine ⟨performs (k := 0) rfl (by decide) nofun, performs (k := 1) rfl (by decide) nofun,
    performs (k := 2) rfl (by decide) nofun, performs (k := 3) rfl (by decide) nofun,
    performs (k := 4) rfl (by decide) nofun, fun hupc hin => ?_, fun hupc hout => ?_,
    performs (k := 6) rfl (by decide) nofun, performs (k := 7) rfl (by decide) nofun, fun hupc => ?_⟩
  · rw [performs (k := 5) rfl (by decide) (fun _ => hin) hupc, ackOf_eq, ← sdaIn_of_in hin]
    rfl
  · exact exec_refused.mpr ⟨rfl, hout, _, hr ▸ at_offset (k := 5) rfl hupc, rfl⟩
  · exact exec_last hr (at_offset (k := 8) rfl hupc) nofun (congrArg (· + 1) hupc)

/-! ### A received byte (R76, R77) -/

theorem withFirst_getElem? (e : Effect) (r : Routine) {k : Nat} (hk : k ≠ 0) : (withFirst e r)[k]? = r[k]? := by
  obtain ⟨k, rfl⟩ := Nat.exists_eq_succ_of_ne_zero hk
  cases r <;> rfl

/-- All micro-operations of the eight bits but the first, which clears `SH`. -/
theorem receiveByte_bit (p : AckFlag) {j k : Nat} {m : MicroStep} (hj : j < 8) (hpos : 8 * j + k ≠ 0)
    (hm : receiveBit[k]? = some m) : (receiveByte p)[8 * j + k]? = some m := by
  have hbits := getElem?_flatMap_of_length (n := 8) (f := fun _ => receiveBit) (fun _ => rfl) (msbFirst_getElem? j hj) hm
  rw [← withFirst_getElem? .clearShift _ hpos] at hbits
  rw [receiveByte, List.getElem?_append_left (List.getElem?_eq_some_iff.mp hbits).1, hbits]

theorem receiveByte_ack (p : AckFlag) (k : Nat) : (receiveByte p)[64 + k]? = (driveAckPhase p)[k]? := by
  rw [receiveByte, List.getElem?_append_right (Nat.le_add_right 64 k)]
  exact congrArg ((driveAckPhase p)[·]?) (Nat.add_sub_cancel_left 64 k)

theorem routineOf_rxbyte (p : AckFlag) (res : ResultCode) : routineOf (.rxbyte p) res = receiveByte p := rfl

theorem shifted_eq (sh : Byte) (l : Level) : shifted sh l = shiftIn sh (bitOf l) := by
  cases l <;> (revert sh; decide)

theorem policyLevel_eq (p : AckFlag) : policyLevel p = lvlOfPolicy p := by cases p <;> rfl

/-- Settles O15: micro-operation `k` of bit `j` stands at offset `8 * j + k` (`receiveByte_bit`), but that offset 0 clears
`SH` too; number 5 of a bit reads and shifts. -/
theorem receivedBitsMicroOperations : Obligations.ReceivedBitsMicroOperations := by
  intro p s j hj
  have performs {k : Nat} {m : MicroStep} (hm : receiveBit[k]? = some m) (hpos : 8 * j + k ≠ 0)
      (hread : m.op = .readDataLine → s.sdaDir = .IN) (hupc : s.upc = 8 * j + k) :
      exec (.rxbyte p) s = .next (stepped m s) := by
    have hk : k < 8 := (List.getElem?_eq_some_iff.mp hm).1
    refine exec_middle (routineOf_rxbyte p _) (hupc ▸ receiveByte_bit p hj hpos hm) hread ?_
    rw [receiveByte_length]
    omega
  refine ⟨fun hupc => ?_, fun hupc hfirst => performs (k := 0) rfl (by omega) nofun hupc,
    performs (k := 1) rfl (by omega) nofun, performs (k := 2) rfl (by omega) nofun,
    performs (k := 3) rfl (by omega) nofun, performs (k := 4) rfl (by omega) nofun, fun hupc hin => ?_,
    fun hupc hout => ?_, performs (k := 6) rfl (by omega) nofun, performs (k := 7) rfl (by omega) nofun⟩
  · exact exec_middle (m := ⟨.setClockLine .L, [.clearShift]⟩) (routineOf_rxbyte p _) (by rw [hupc]; rfl) nofun
      (by rw [hupc, receiveByte_length]; decide)
  · rw [performs (k := 5) rfl (by omega) (fun _ => hin) hupc, shifted_eq, ← sdaIn_of_in hin]
    rfl
  · exact exec_refused.mpr ⟨rfl, hout, _, hupc ▸ receiveByte_bit p hj (by omega) rfl, rfl⟩

/-- Settles O16: micro-operation `k` of the ack phase stands at offset `64 + k` (`receiveByte_ack`); none of them reads,
and number 8 presents the byte and completes. -/
theorem receiveAckMicroOperations : Obligations.ReceiveAckMicroOperations := by
  intro p s
  have at_offset {k : Nat} {m : MicroStep} (hm : (driveAckPhase p)[k]? = some m) (hupc : s.upc = 64 + k) :
      (receiveByte p)[s.upc]? = some m := by rw [hupc, receiveByte_ack, hm]
  have performs {k : Nat} {m : MicroStep} (hm : (driveAckPhase p)[k]? = some m) (hk : k ≠ 8)
      (hop : m.op ≠ .readDataLine) (hupc : s.upc = 64 + k) : exec (.rxbyte p) s = .next (stepped m s) :=
    exec_middle (routineOf_rxbyte p _) (at_offset hm hupc) (absurd · hop) (by rw [receiveByte_length]; omega)
  rw [policyLevel_eq]
  exact ⟨performs (k := 0) rfl (by decide) nofun, performs (k := 1) rfl (by decide) nofun,
    performs (k := 2) rfl (by decide) nofun, performs (k := 3) rfl (by decide) nofun,
    performs (k := 4) rfl (by decide) nofun, performs (k := 5) rfl (by decide) nofun,
    performs (k := 6) rfl (by decide) nofun, performs (k := 7) rfl (by decide) nofun,
    fun hupc => exec_last (routineOf_rxbyte p _) (at_offset (k := 8) rfl hupc) nofun (congrArg (· + 1) hupc)⟩

/-! ## What the byte commands leave unchanged -/

section
variable {i : Instr} {s t : State}

/-- `OST` stays in a step that enters no orchestrator state and does not complete the command (R23). -/
theorem exec_keeps_ost (h : exec i s = .next t) (henter : ∀ o, (s.upc, Effect.enter o) ∉ effectsOf i s.res)
    (hmore : s.upc + 1 ≠ (routineOf i s.res).length) : t.ost = s.ost := by
  obtain ⟨m, hm, -, rfl⟩ := exec_next.mp h
  rw [if_neg hmore, stepped_ost]
  refine List.foldlRecOn m.effects orchStep (motive := (· = s.ost)) rfl fun o ho e he => ?_
  cases e with
  | enter o' => exact absurd (effect_listed hm he) (henter o')
  | _ => exact ho

/-- `SH` stays where it is neither cleared nor shifted (R77). -/
theorem exec_keeps_sh (h : exec i s = .next t) (hclear : (s.upc, Effect.clearShift) ∉ effectsOf i s.res)
    (hshift : (s.upc, Effect.shiftSample) ∉ effectsOf i s.res) : t.sh = s.sh := by
  obtain ⟨m, hm, -, rfl⟩ := exec_next.mp h
  have hkept : (stepped m s).sh = s.sh := by
    have hop : (microOp (sdaIn s) m.op s).sh = s.sh := by rw [microOp_eq]
    refine List.foldlRecOn m.effects (applyEffect (sdaIn s)) (motive := (·.sh = s.sh)) hop fun u hu e he => ?_
    rw [applyEffect_sh, if_neg, if_neg, hu]
    · rintro rfl; exact hshift (effect_listed hm he)
    · rintro rfl; exact hclear (effect_listed hm he)
  split <;> exact hkept

/-- `RXD` and `RXV` stay where no byte is presented (R77). -/
theorem exec_keeps_byte (h : exec i s = .next t) (hpresent : (s.upc, Effect.presentByte) ∉ effectsOf i s.res) :
    t.rxd = s.rxd ∧ t.rxv = s.rxv := by
  obtain ⟨m, hm, -, rfl⟩ := exec_next.mp h
  have hkept : (stepped m s).rxd = s.rxd ∧ (stepped m s).rxv = s.rxv := by
    have hop := microOp_eq (sdaIn s) m.op s
    simpa [stepped, hop] using
      applyEffects_no_byte (v := sdaIn s) (microOp (sdaIn s) m.op s) fun he => hpresent (effect_listed hm he)
  split <;> exact hkept

/-- `RES` stays throughout a command that raises no code (R75, R90). -/
theorem exec_keeps_res (h : exec i s = .next t) (hcode : raisingSamples i = []) : t.res = s.res := by
  obtain ⟨m, hm, -, rfl⟩ := exec_next.mp h
  have hkept : (stepped m s).res = s.res := by
    refine (stepped_res m s).resolve_right fun he => ?_
    obtain ⟨hraise, -⟩ := raising_sample (effect_listed hm he)
    rw [hcode] at hraise
    cases hraise
  split <;> exact hkept

/-- `ACKF` stays where no acknowledge is sampled (R26). -/
theorem exec_keeps_ackf (h : exec i s = .next t) (hsample : ∀ c, (s.upc, Effect.sampleAck c) ∉ effectsOf i s.res) :
    t.ackf = s.ackf := by
  obtain ⟨hack, -⟩ | ⟨c, hc, -⟩ := exec_ack h
  · exact hack
  · exact absurd hc (hsample c)

end

/-- R75, R82: a transmitted byte's one attached write. -/
theorem sends_effects {i : Instr} {x : Byte} (h : Sends i x) (res : ResultCode) :
    effectsOf i res = [(53, .sampleAck none)] := by
  obtain rfl | ⟨sa, dir, rfl, -⟩ := h <;> rfl

/-- Settles O49: the only attached write of TXBYTE and ADDR is the sample at 53 (`sends_effects`), so the other registers
are kept. -/
theorem transmitCommandsFrame : Obligations.TransmitCommandsFrame := by
  intro i x s t hsends h
  have heffects := sends_effects hsends s.res
  have hcode : raisingSamples i = [] := by obtain rfl | ⟨sa, dir, rfl, -⟩ := hsends <;> rfl
  have hlast : s.upc + 1 = (routineOf i s.res).length ↔ s.upc = 56 := by
    rw [routineOf_sends hsends, transmitByte_length]
    exact Nat.succ_inj
  obtain ⟨hrxd, hrxv⟩ := exec_keeps_byte h (by simp [heffects])
  exact ⟨exec_outsideKept h, exec_keeps_sh h (by simp [heffects]) (by simp [heffects]), hrxd, hrxv,
    exec_keeps_res h hcode, fun hupc => exec_keeps_ackf h (by simp [heffects, hupc]),
    by simpa only [hlast] using exec_completesAt h, fun hupc => exec_keeps_ost h (by simp [heffects]) (mt hlast.mp hupc)⟩

/-- Settles O50: by the offsets of the attached writes (`receiveByte_effects`), among them no acknowledge sample. -/
theorem receiveCommandFrame : Obligations.ReceiveCommandFrame := by
  intro p s t h
  have heffects : effectsOf (.rxbyte p) s.res = _ := receiveByte_effects 0 p
  have hlast : s.upc + 1 = (routineOf (.rxbyte p) s.res).length ↔ s.upc = 72 := Nat.succ_inj
  refine ⟨exec_outsideKept h, exec_keeps_ackf h (by simp [heffects]), exec_keeps_res h rfl, fun hupc => ?_,
    fun hupc => exec_keeps_byte h (by simp [heffects, hupc]),
    by simpa only [hlast] using exec_completesAt h, fun hupc => exec_keeps_ost h (by simp [heffects]) (mt hlast.mp hupc)⟩
  simp only [List.mem_cons, not_or, List.not_mem_nil] at hupc
  exact exec_keeps_sh h (by simp [heffects, hupc]) (by simp [heffects, hupc])

/-! ## Whole bytes

A byte command has one path, whatever `RES` holds, so it runs through its routine from any state. -/

section
variable {i : Instr} {r : Routine} {ls : List Level} {s : State}

/-- The rest of a command with one path, from micro-operation `UPC` on: by induction on the rest of its routine. -/
theorem execRun_rest_of_fixed {rest : Routine} (hfixed : ∀ res, routineOf i res = r) (hrest : r.drop s.upc = rest)
    (hmore : rest ≠ []) (hlength : ls.length = rest.length) (hreads : readsIn s.sdaDir (ops rest) = true) :
    execRun i ls s = .next (complete (performed rest ls s)) := by
  induction rest generalizing ls s with
  | nil => exact absurd rfl hmore
  | cons m rest ih =>
    cases ls with
    | nil => cases hlength
    | cons l ls =>
      have hm : r[s.upc]? = some m := by rw [← List.head?_drop, hrest]; rfl
      have hnext : r.drop (s.upc + 1) = rest := by rw [← List.tail_drop, hrest]; rfl
      have hleft : r.length - (s.upc + 1) = rest.length := by rw [← List.length_drop, hnext]
      have hbelow : s.upc < r.length := (List.getElem?_eq_some_iff.mp hm).1
      obtain ⟨hread, hreads⟩ := readsIn_cons.mp hreads
      refine execRun_cons.mpr ?_
      cases rest with
      | nil =>
        obtain rfl := List.length_eq_zero_iff.mp (Nat.succ.inj hlength)
        refine ⟨_, exec_last (s := holdSda l s) (hfixed _) hm hread ?_, rfl⟩
        rw [List.length_nil] at hleft
        rw [holdSda_upc]
        omega
      | cons m' rest =>
        refine ⟨_, exec_middle (s := holdSda l s) (hfixed _) hm hread ?_, ?_⟩
        · rw [List.length_cons] at hleft
          rw [holdSda_upc]
          omega
        · exact ih (by rwa [stepped_upc]) (List.cons_ne_nil _ _) (Nat.succ.inj hlength) (by rwa [stepped_sdaDir])

/-- A whole command with one path: the pins, the events and the count follow from its micro-operations, the rest from
its attached writes. -/
theorem execRun_of_fixed (hfixed : ∀ res, routineOf i res = r) (hlength : ls.length = r.length) (hupc : s.upc = 0) :
    execRun i ls s = .next (complete (moved (pinsAfter r s.pins) (s.tr ++ eventsOf (ops r) ls) r.length
      (ls.getLastD s.envSda) (written (fun k => ls.getD k .H) (effectsOf i .OK) s))) := by
  have hmore : r ≠ [] := List.ne_nil_of_length_pos (by rw [← hfixed .OK, routineOf_length]; exact lengthOf_pos i .OK)
  have hreads : readsIn s.sdaDir (ops r) = true := hfixed .OK ▸ routineOf_readsIn i .OK _
  rw [execRun_rest_of_fixed hfixed (by rw [hupc, List.drop_zero]) hmore hlength hreads,
    performed_eq (fun k => ls.getD k .H) 0 hlength hreads (hfixed .OK ▸ routineOf_levelsAtReads i .OK)
      (fun k l hk => by simp [hk]), hupc, Nat.zero_add, ← routineOf_effects, hfixed]

end

/-- The events depend on the levels at the reads alone. -/
theorem eventsOf_congr {ms : List MicroOp} {ls ls' : List Level} {ks : List Nat} (hlength : ls.length = ls'.length)
    (hreads : ms.findIdxs (· = .readDataLine) = ks) (h : ∀ k ∈ ks, ls[k]? = ls'[k]?) :
    eventsOf ms ls = eventsOf ms ls' := by
  refine List.ext_getElem (by simp [eventsOf, hlength]) fun k hk hk' => ?_
  simp only [eventsOf, List.length_zipWith, Nat.lt_min] at hk hk'
  obtain ⟨hms, hls⟩ := hk
  obtain ⟨-, hls'⟩ := hk'
  simp only [eventsOf, List.getElem_zipWith]
  by_cases hop : ms[k] = .readDataLine
  · have hlevel := h k (hreads ▸ List.mem_findIdxs_iff_exists_getElem_pos.mpr ⟨hms, decide_eq_true hop⟩)
    rw [List.getElem?_eq_getElem hls, List.getElem?_eq_getElem hls'] at hlevel
    rw [Option.some.inj hlevel]
  · exact eventOf_of_not_read hop _ _

theorem transmitByte_readOffsets (c : Option ResultCode) (x : Byte) :
    (ops (transmitByte c x)).findIdxs (· = .readDataLine) = [53] := rfl

theorem receiveByte_readOffsets (p : AckFlag) :
    (ops (receiveByte p)).findIdxs (· = .readDataLine) = [5, 13, 21, 29, 37, 45, 53, 61] := rfl

theorem levelOf_eq (b : Bool) : levelOf b = lvl b := rfl

/-- R75: the one read of a transmitted byte is its acknowledge sample. -/
theorem transmitByte_events (x : Byte) {ls : List Level} {a : Level} (hlength : ls.length = 57)
    (ha : LevelAt ls 53 a) : eventsOf (ops (transmitByte none x)) ls = txTrace x a := by
  rw [eventsOf_congr (ls' := List.replicate 57 a) hlength (transmitByte_readOffsets none x)
    (List.forall_mem_singleton.mpr ha)]
  rfl

/-- Levels for a received byte that hold each of `bits` throughout its bit. -/
def heldBits (bits : List Level) : List Level := bits.flatMap (List.replicate 8) ++ List.replicate 9 .H

/-- R77: the reads of a received byte are its eight samples. -/
theorem receiveByte_events (p : AckFlag) {ls : List Level} (hlength : ls.length = 73) :
    eventsOf (ops (receiveByte p)) ls = rxTrace (receivedFrom 0 ls) p := by
  have hsamples : ∀ k ∈ [5, 13, 21, 29, 37, 45, 53, 61], ls[k]? = (heldBits (receivedFrom 0 ls))[k]? := by
    have hlevel (k : Nat) (hk : k < 73) : ls[k]? = some (ls.getD k .H) := by simp [hlength, hk]
    intro k hk
    rw [hlevel k (by simp at hk; omega)]
    fin_cases hk <;> rfl
  rw [eventsOf_congr hlength (receiveByte_readOffsets p) hsamples, rxTrace, policyLevel_eq]
  rfl

/-- Settles O23: the closed form `execRun_of_fixed`, the events by `transmitByte_events`, the one write into `ACKF`. -/
theorem transmittedByteRun : Obligations.TransmittedByteRun := by
  intro i x s ls a hsends hupc hlength ha
  have hlevel : ls.getD 53 .H = a := by rw [List.getD_eq_getElem?_getD, ha]; rfl
  rw [execRun_of_fixed (routineOf_sends hsends) hlength hupc, transmitByte_events x hlength ha, transmitByte_pins,
    sends_effects hsends]
  simp only [written, List.foldl_cons, List.foldl_nil, hlevel, ackOf_eq]
  simp [complete, moved, ended, applyEffect, writeAckf, levelOf_eq]

/-- R77: what the attached writes of RXBYTE make of the state. -/
theorem written_rxbyte_eq (f : Nat → Level) (p : AckFlag) (s : State) :
    written f (effectsOf (.rxbyte p) .OK) s =
      { s with sh := receivedByte f 0, rxd := receivedByte f 0, rxv := true } := by
  simp [written, effectsOf, receiveByte_effects, applyEffect, receivedByte]

theorem receivedByte_eq_byteOf (ls : List Level) (n : Nat) :
    receivedByte (fun k => ls.getD k .H) n = byteOf (receivedFrom n ls) := by
  rw [byteOf, ← foldl_shiftIn_levels, receivedFrom, List.foldl_map, List.foldl_map]
  rfl

/-- Settles O24: the closed form `execRun_of_fixed`, the events by `receiveByte_events`, the byte by
`written_rxbyte_eq`. -/
theorem receivedByteRun : Obligations.ReceivedByteRun := by
  intro p s ls hupc hlength
  rw [execRun_of_fixed (routineOf_rxbyte p) hlength hupc, receiveByte_events p hlength, receiveByte_pins,
    written_rxbyte_eq, receivedByte_eq_byteOf, ← policyLevel_eq]
  simp [complete, moved, ended]

/-! ## Where the hold on the data line moves under a high clock (R73, R79, R118) -/

/-- R63: these pins pull the data line low. -/
def Pins.pullsSda (p : Pins) : Bool := decide (p.dir = .OUT ∧ p.sda = .L)

theorem pullsSda_pins (s : State) : s.pins.pullsSda = sdaPullLow s := rfl

/-- The offsets, counted from `n`, of the micro-operations that change the hold on the data line while the clock pin is
high, the pins being `p` before the first. -/
def highMoves : Nat → Pins → List MicroOp → List Nat
  | _, _, [] => []
  | n, p, m :: ms =>
    (if p.scl = .H ∧ (p.after m).pullsSda ≠ p.pullsSda then [n] else []) ++ highMoves (n + 1) (p.after m) ms

theorem highMoves_append (n : Nat) (p : Pins) (ms ms' : List MicroOp) :
    highMoves n p (ms ++ ms') = highMoves n p ms ++ highMoves (n + ms.length) (ms.foldl Pins.after p) ms' := by
  induction ms generalizing n p with
  | nil => rfl
  | cons m ms ih =>
    rw [List.cons_append, highMoves, ih, highMoves, List.append_assoc, List.length_cons, List.foldl_cons,
      Nat.add_assoc, Nat.add_comm 1]

/-- A micro-operation that changes the hold while the clock pin is high is listed. -/
theorem mem_highMoves {ms : List MicroOp} {n k : Nat} {p : Pins} {m : MicroOp} (hm : ms[k]? = some m)
    (hhigh : ((ms.take k).foldl Pins.after p).scl = .H)
    (hmoves : (((ms.take k).foldl Pins.after p).after m).pullsSda ≠ ((ms.take k).foldl Pins.after p).pullsSda) :
    n + k ∈ highMoves n p ms := by
  induction ms generalizing n k p with
  | nil => simp at hm
  | cons a ms ih =>
    rw [highMoves, List.mem_append]
    cases k with
    | zero =>
      obtain rfl : a = m := by simpa using hm
      exact .inl (by rw [if_pos ⟨hhigh, hmoves⟩]; exact List.mem_singleton_self n)
    | succ k =>
      refine .inr ?_
      rw [show n + (k + 1) = n + 1 + k by omega]
      exact ih (by simpa using hm) hhigh hmoves

theorem highMoves_ops_append (n : Nat) (p : Pins) (r r' : Routine) :
    highMoves n p (ops (r ++ r')) = highMoves n p (ops r) ++ highMoves (n + r.length) (pinsAfter r p) (ops r') := by
  rw [ops_append, highMoves_append, pinsAfter_eq_ops, ops, List.length_map]

/-! Neither the clock's micro-operations nor a delay move the data line, and under a low clock it may move. -/

section
variable (n : Nat) (p : Pins) (ms : List MicroOp)

@[simp] theorem highMoves_clock (l : Level) :
    highMoves n p (.setClockLine l :: ms) = highMoves (n + 1) ⟨l, p.sda, p.dir⟩ ms := by
  rw [highMoves, if_neg fun h => h.2 rfl]
  rfl

@[simp] theorem highMoves_delay (name : DelayName) :
    highMoves n p (.delay name :: ms) = highMoves (n + 1) p ms := by
  simp [highMoves, Pins.after]

@[simp] theorem highMoves_read : highMoves n p (.readDataLine :: ms) = highMoves (n + 1) p ms := by
  simp [highMoves, Pins.after]

@[simp] theorem highMoves_low (sda : Level) (dir : Dir) (m : MicroOp) :
    highMoves n ⟨.L, sda, dir⟩ (m :: ms) = highMoves (n + 1) (Pins.after ⟨.L, sda, dir⟩ m) ms := by
  simp [highMoves]

@[simp] theorem highMoves_nil : highMoves n p [] = [] := rfl

end

theorem highMoves_flatMap {α : Type} {f : α → Routine} (hf : ∀ a n p, highMoves n p (ops (f a)) = []) (l : List α)
    (n : Nat) (p : Pins) : highMoves n p (ops (l.flatMap f)) = [] := by
  induction l generalizing n p with
  | nil => rfl
  | cons a l ih => rw [List.flatMap_cons, highMoves_ops_append, hf, ih]; rfl

section
variable (n : Nat) (p : Pins)

/-- R80: the START edge; from idle-safe pins the data line is released before the clock is high. -/
theorem startRoutine_highMoves (hsafe : p.idleSafe) : highMoves n p (ops startRoutine) = [n + 5] := by
  obtain ⟨c, d, r⟩ := p
  cases c with
  | L => simp [ops, startRoutine, Pins.after, highMoves, Pins.pullsSda]
  | H =>
    have hreleased : r = .OUT → ¬d = .L := by simpa [Pins.idleSafe] using hsafe
    simpa [ops, startRoutine, Pins.after, highMoves, Pins.pullsSda] using hreleased

/-- R81: the STOP edge. -/
theorem stopRoutine_highMoves : highMoves n p (ops stopRoutine) = [n + 6] := by
  simp [ops, stopRoutine, Pins.after, highMoves, Pins.pullsSda]

/-- R73 (d), R75: each bit and the ack phase begin by taking the clock low. -/
theorem transmitByte_highMoves (c : Option ResultCode) (x : Byte) : highMoves n p (ops (transmitByte c x)) = [] := by
  have hbits := highMoves_flatMap (f := fun j => transmitBit (x.getLsbD j))
    (fun j n p => by simp [ops, transmitBit, Pins.after]) msbFirst n p
  rw [transmitByte, highMoves_ops_append, hbits]
  simp [ops, sampleAckPhase, Pins.after]

/-- R73 (d), R77: each bit ends with the clock low, under which the master takes the line for its acknowledge. -/
theorem receiveByte_highMoves (a : AckFlag) : highMoves n p (ops (receiveByte a)) = [] := by
  have hbits := highMoves_flatMap (f := fun _ => receiveBit)
    (fun j n p => by simp [ops, receiveBit, Pins.after]) msbFirst n p
  have hpins : pinsAfter (withFirst .clearShift (msbFirst.flatMap fun _ => receiveBit)) p = ⟨.L, p.sda, .IN⟩ := rfl
  rw [receiveByte, highMoves_ops_append, ops_withFirst, hbits, hpins]
  simp [ops, driveAckPhase, Pins.after]

end

theorem Pins.idleSafe_low (sda : Level) (dir : Dir) : Pins.idleSafe ⟨.L, sda, dir⟩ := .inl rfl

/-- R79: from idle-safe pins a command moves the data line under a high clock at its START and STOP edges alone; each
stage hands the next one pins with a low clock. -/
theorem routineOf_highMoves (i : Instr) (res : ResultCode) {p : Pins} (hsafe : p.idleSafe) :
    highMoves 0 p (ops (routineOf i res)) = edgeOffsets i res := by
  cases i with
  | start => exact startRoutine_highMoves 0 p hsafe
  | stop => exact stopRoutine_highMoves 0 p
  | txbyte x => exact transmitByte_highMoves 0 p _ x
  | rxbyte a => exact receiveByte_highMoves 0 p a
  | addr sa dir => exact transmitByte_highMoves 0 p _ _
  | wrreg sa ra d =>
    cases res <;>
      simp [-ops_append, routineOf, wrregRoutine, openingToRegister, opening, closing, addressByte, highMoves_ops_append,
        startRoutine_highMoves, stopRoutine_highMoves, transmitByte_highMoves, hsafe, edgeOffsets]
  | rdreg sa ra =>
    cases res <;>
      simp [-ops_append, routineOf, rdregRoutine, openingToReaddress, openingToRegister, opening, closing, addressByte,
        highMoves_ops_append, startRoutine_highMoves, stopRoutine_highMoves, transmitByte_highMoves,
        receiveByte_highMoves, transmitByte_pins, Pins.idleSafe_low, hsafe, edgeOffsets]

/-- Settles O56: the pins of a running command come from idle-safe ones (`Running`), and from those the routine's moves
under a high clock are its START and STOP edges (`routineOf_highMoves`). -/
theorem dataMovesOnlyUnderLowClock : Obligations.DataMovesOnlyUnderLowClock := by
  intro s t i hinv hbusy hdecode hturn hmoves
  obtain ⟨-, rfl⟩ | ⟨-, -, j, u, hdecode', hexec, rfl⟩ := sequencerTurn_next hturn
  · exact absurd rfl hmoves
  obtain rfl : i = j := Except.ok.inj (hdecode.symm.trans hdecode')
  obtain ⟨m, hm, hu, -⟩ := exec_microOp hexec
  obtain ⟨p, hsafe, hs⟩ := (hinv.running_of_decode hbusy hdecode).pins
  cases hclock : s.sclOut with
  | L => exact .inl rfl
  | H =>
    rw [pinsAfter_eq_ops, ops, List.map_take, ← ops] at hs
    rw [← pullsSda_pins, ← pullsSda_pins, observe_pins, hu, hs] at hmoves
    have hhigh : (((ops (routineOf i s.res)).take s.upc).foldl Pins.after p).scl = .H := by rw [← hs]; exact hclock
    have := mem_highMoves (n := 0) hm hhigh hmoves
    rw [routineOf_highMoves i s.res hsafe, Nat.zero_add] at this
    exact .inr this

end Sys2Proof.Machine
end

/-! # Start and stop conditions and address framing

The statements of 42_bus_sequencer.md: START and STOP micro-operation by micro-operation, as whole runs and in what they
leave unchanged, and ADDR as the transmission of its address byte. -/

section
namespace Sys2Proof.Machine

open Sys2Proof.Expected

/-! ## START and STOP, micro-operation by micro-operation (R80, R81) -/

theorem routineOf_start (res : ResultCode) : routineOf .start res = startRoutine := rfl

theorem routineOf_stop (res : ResultCode) : routineOf .stop res = stopRoutine := rfl

/-- Micro-operation number `k` of a routine, where it is no read: it answers a next state in every state, completing the
command if it is the last. -/
theorem exec_of_not_read {i : Instr} {r : Routine} {s : State} {k : Nat} {m : MicroStep} (hr : routineOf i s.res = r)
    (hm : r[k]? = some m) (hop : m.op ≠ .readDataLine) (hupc : s.upc = k) :
    exec i s = .next (if k + 1 = r.length then complete (stepped m s) else stepped m s) := by
  subst hupc
  exact exec_of_step hr hm (absurd · hop)

/-- Settles O10: none of the eight micro-operations reads (`exec_of_not_read`), and number 7 is the last. -/
theorem startMicroOperations : Obligations.StartMicroOperations := by
  intro s
  have performs {k : Nat} {m : MicroStep} (hm : startRoutine[k]? = some m) (hop : m.op ≠ .readDataLine)
      (hupc : s.upc = k) := exec_of_not_read (routineOf_start s.res) hm hop hupc
  exact ⟨performs (k := 0) rfl nofun, performs (k := 1) rfl nofun, performs (k := 2) rfl nofun,
    performs (k := 3) rfl nofun, performs (k := 4) rfl nofun, performs (k := 5) rfl nofun,
    performs (k := 6) rfl nofun, performs (k := 7) rfl nofun⟩

/-- Settles O11: none of the eight micro-operations reads (`exec_of_not_read`), and number 7 is the last. -/
theorem stopMicroOperations : Obligations.StopMicroOperations := by
  intro s
  have performs {k : Nat} {m : MicroStep} (hm : stopRoutine[k]? = some m) (hop : m.op ≠ .readDataLine)
      (hupc : s.upc = k) := exec_of_not_read (routineOf_stop s.res) hm hop hupc
  exact ⟨performs (k := 0) rfl nofun, performs (k := 1) rfl nofun, performs (k := 2) rfl nofun,
    performs (k := 3) rfl nofun, performs (k := 4) rfl nofun, performs (k := 5) rfl nofun,
    performs (k := 6) rfl nofun, performs (k := 7) rfl nofun⟩

/-! ## Whole conditions (R83) -/

/-- R80: no event of `Start()` is a read, so they do not depend on the levels. -/
theorem startRoutine_events {ls : List Level} (hlength : ls.length = 8) :
    eventsOf (ops startRoutine) ls = startTrace := by
  rw [eventsOf_congr (ls' := List.replicate 8 .H) (ks := []) hlength rfl nofun]
  rfl

/-- R81: no event of `Stop()` is a read, so they do not depend on the levels. -/
theorem stopRoutine_events {ls : List Level} (hlength : ls.length = 8) :
    eventsOf (ops stopRoutine) ls = stopTrace := by
  rw [eventsOf_congr (ls' := List.replicate 8 .H) (ks := []) hlength rfl nofun]
  rfl

/-- Settles O22: the closed form `execRun_of_fixed`, the events by `startRoutine_events` and `stopRoutine_events`; no
write is attached. -/
theorem startAndStopRuns : Obligations.StartAndStopRuns := by
  intro s ls hupc hlength
  constructor
  · rw [execRun_of_fixed routineOf_start hlength hupc, startRoutine_events hlength, startRoutine_pins]
    simp [complete, moved, ended, written, effectsOf]
  · rw [execRun_of_fixed routineOf_stop hlength hupc, stopRoutine_events hlength, stopRoutine_pins]
    simp [complete, moved, ended, written, effectsOf]

/-! ## What START and STOP leave unchanged -/

/-- Settles O48: START and STOP attach no write to any micro-operation and raise no code, so the registers that only
attached writes change are kept. -/
theorem conditionCommandsFrame : Obligations.ConditionCommandsFrame := by
  intro i s t hi h
  have heffects : effectsOf i s.res = [] := by obtain rfl | rfl := hi <;> rfl
  have hcode : raisingSamples i = [] := by obtain rfl | rfl := hi <;> rfl
  have hlast : s.upc + 1 = (routineOf i s.res).length ↔ s.upc = 7 := by obtain rfl | rfl := hi <;> exact Nat.succ_inj
  obtain ⟨hrxd, hrxv⟩ := exec_keeps_byte h (by simp [heffects])
  exact ⟨exec_outsideKept h, exec_keeps_sh h (by simp [heffects]) (by simp [heffects]), hrxd, hrxv,
    exec_keeps_ackf h (by simp [heffects]), exec_keeps_res h hcode,
    by simpa only [hlast] using exec_completesAt h, fun hupc => exec_keeps_ost h (by simp [heffects]) (mt hlast.mp hupc)⟩

/-! ## Address framing (R82) -/

theorem exec_addr_eq_txbyte (sa : Byte) (dir : Access) (s : State) :
    exec (.addr sa dir) s = exec (.txbyte (addressByteOf sa dir)) s := by
  rw [← addrByte_eq]
  rfl

/-- R53: bit 0 of the slave address has no part in the address byte. -/
theorem addressByteOf_congr {sa sa' : Byte} (h : sa &&& 0xFE#8 = sa' &&& 0xFE#8) (dir : Access) :
    addressByteOf sa dir = addressByteOf sa' dir := by
  rw [addressByteOf, h, addressByteOf]

/-- Settles O14: the word is in ADDR's row (`Reads`), and the meaning of ADDR is that of TXBYTE of its address byte
(`exec_addr_eq_txbyte`), in which `sa[0]` has no part (`addressByteOf_congr`). -/
theorem addrSendsAddressByte : Obligations.AddrSendsAddressByte := by
  refine ⟨fun w hopc => ?_, fun sa dir s => ?_, fun sa sa' dir s h => ?_⟩
  · exact decode_of_reads (i := .addr _ _) ⟨hopc, rfl, congrArg accessOfBit (fieldC_getLsbD_zero w)⟩
  · exact ⟨exec_addr_eq_txbyte sa dir s, addressByte_length none sa dir⟩
  · rw [exec_addr_eq_txbyte, addressByteOf_congr h, ← exec_addr_eq_txbyte]

end Sys2Proof.Machine
end

/-! # Register transactions

The statements of 43_transaction_orchestrator.md: WRREG and RDREG as their stages, micro-operation by micro-operation
and as whole runs on each of their paths. -/

section
namespace Sys2Proof.Machine

open Sys2Proof.Expected

/-! ## Lengths and offsets of the paths (R85, R86) -/

theorem wrreg_length (sa ra d : Byte) (res : ResultCode) :
    (routineOf (.wrreg sa ra d) res).length = wrregLength res := by
  rw [routineOf_length]
  cases res <;> rfl

theorem rdreg_length (sa ra : Byte) (res : ResultCode) : (routineOf (.rdreg sa ra) res).length = rdregLength res := by
  rw [routineOf_length]
  cases res <;> rfl

/-- R85: WRREG enters an orchestrator state at the end of its named stages, and in its last step. -/
theorem wrreg_enters {sa ra d : Byte} {res : ResultCode} {k : Nat} {o : OrchState}
    (h : (k, Effect.enter o) ∈ effectsOf (.wrreg sa ra d) res) : k ∈ [7, 64, 178] ∨ k + 1 = wrregLength res := by
  cases res <;> simp [effectsOf] at h <;> simp [wrregLength] <;> omega

/-- R86: RDREG enters an orchestrator state at the end of its named stages, and in its last step. -/
theorem rdreg_enters {sa ra : Byte} {res : ResultCode} {k : Nat} {o : OrchState}
    (h : (k, Effect.enter o) ∈ effectsOf (.rdreg sa ra) res) :
    k ∈ [7, 64, 129, 186, 259] ∨ k + 1 = rdregLength res := by
  cases res <;> simp [effectsOf] at h <;> simp [rdregLength] <;> omega

/-- Settles O51: `OST` stays where no state is entered (`exec_keeps_ost`), and the states are entered at the offsets of
`wrreg_enters` and `rdreg_enters`. -/
theorem compositeCommandsOrchestratorFrame : Obligations.CompositeCommandsOrchestratorFrame := by
  refine ⟨fun sa ra d s t h hstage hmore => ?_, fun sa ra s t h hstage hmore => ?_⟩
  · exact exec_keeps_ost h (fun o ho => (wrreg_enters ho).elim hstage hmore) (by rwa [wrreg_length])
  · exact exec_keeps_ost h (fun o ho => (rdreg_enters ho).elim hstage hmore) (by rwa [rdreg_length])

/-! ## The stages are the primitive commands (R85, R86)

With the orchestrator's own writes left out, the routine of a composite command is its stages' routines one after
another. -/

/-- The write without what the orchestrator adds to it: the state it enters, the code it raises. -/
def Effect.transfer : Effect → Option Effect
  | .clearShift => some .clearShift
  | .shiftSample => some .shiftSample
  | .sampleAck _ => some (.sampleAck none)
  | .presentByte => some .presentByte
  | .enter _ => none

/-- The line of a routine without the orchestrator's writes. -/
def MicroStep.transfer (m : MicroStep) : MicroStep := ⟨m.op, m.effects.filterMap Effect.transfer⟩

/-- The routine without the orchestrator's writes. -/
def transfers (r : Routine) : Routine := r.map MicroStep.transfer

@[simp] theorem transfers_append (r r' : Routine) : transfers (r ++ r') = transfers r ++ transfers r' := List.map_append

@[simp] theorem transfers_enter (o : OrchState) (r : Routine) : transfers (withLast (.enter o) r) = transfers r := by
  induction r with
  | nil => rfl
  | cons m r ih =>
    cases r with
    | nil => simp [transfers, withLast, MicroStep.transfer, Effect.transfer]
    | cons m' r => exact congrArg (m.transfer :: ·) ih

@[simp] theorem ops_transfers (r : Routine) : ops (transfers r) = ops r := by
  simp [ops, transfers, MicroStep.transfer]

@[simp] theorem transfers_startRoutine : transfers startRoutine = startRoutine := rfl
@[simp] theorem transfers_stopRoutine : transfers stopRoutine = stopRoutine := rfl
@[simp] theorem transfers_transmitByte (c : Option ResultCode) (x : Byte) :
    transfers (transmitByte c x) = transmitByte none x := rfl
@[simp] theorem transfers_receiveByte (p : AckFlag) : transfers (receiveByte p) = receiveByte p := rfl

/-- The routines of stages one after another. -/
def stageRoutines (res : ResultCode) (stages : List (Nat × Instr)) : Routine :=
  stages.flatMap fun st => routineOf st.2 res

/-- Each stage begins where the one before it ends, the first at offset `n`. -/
def Consecutive (res : ResultCode) : Nat → List (Nat × Instr) → Prop
  | _, [] => True
  | n, (k, i) :: stages => k = n ∧ Consecutive res (n + lengthOf i res) stages

/-- Without the orchestrator's writes the command is its stages one after another, from offset 0 on; it leaves the pins
idle-high (R87). -/
structure Staged (i : Instr) (res : ResultCode) (stages : List (Nat × Instr)) : Prop where
  routine : transfers (routineOf i res) = stageRoutines res stages
  consecutive : Consecutive res 0 stages
  pins (p : Pins) : pinsAfter (routineOf i res) p = ⟨.H, .H, .OUT⟩

/-- R85: the stages of WRREG. -/
theorem wrreg_staged (sa ra d : Byte) (res : ResultCode) : Staged (.wrreg sa ra d) res (wrregStages sa ra d res) where
  routine := by
    cases res <;>
      simp [stageRoutines, wrregStages, routineOf, wrregRoutine, openingToRegister, opening, closing, addressByte]
  consecutive := by cases res <;> simp [wrregStages, Consecutive, lengthOf]
  pins p := by cases res <;> simp [routineOf, wrregRoutine, closing_pins]

/-- R86: the stages of RDREG. -/
theorem rdreg_staged (sa ra : Byte) (res : ResultCode) : Staged (.rdreg sa ra) res (rdregStages sa ra res) where
  routine := by
    cases res <;>
      simp [stageRoutines, rdregStages, routineOf, rdregRoutine, openingToReaddress, openingToRegister, opening,
        closing, addressByte]
  consecutive := by cases res <;> simp [rdregStages, Consecutive, lengthOf]
  pins p := by cases res <;> simp [routineOf, rdregRoutine, closing_pins]

/-- Micro-operation `j` of the stage that begins at offset `k`, where the first begins at `n`. -/
theorem stageRoutines_getElem? {res : ResultCode} {stages : List (Nat × Instr)} {n k j : Nat} {i : Instr}
    {m : MicroStep} (h : Consecutive res n stages) (hmem : (k, i) ∈ stages) (hm : (routineOf i res)[j]? = some m) :
    ∃ a, k = n + a ∧ (stageRoutines res stages)[a + j]? = some m := by
  induction stages generalizing n with
  | nil => cases hmem
  | cons st stages ih =>
    obtain ⟨rfl, h⟩ := h
    rw [stageRoutines, List.flatMap_cons, ← stageRoutines]
    cases hmem with
    | head => exact ⟨0, rfl, by rw [Nat.zero_add, List.getElem?_append_left (List.getElem?_eq_some_iff.mp hm).1, hm]⟩
    | tail _ hmem =>
      obtain ⟨a, rfl, ha⟩ := ih h hmem
      refine ⟨lengthOf st.2 res + a, Nat.add_assoc .., ?_⟩
      rw [Nat.add_assoc, ← routineOf_length, List.getElem?_append_right (Nat.le_add_right ..),
        Nat.add_sub_cancel_left, ha]

/-! ### A step does the same transfer without the orchestrator's writes -/

theorem applyEffect_transfer {s u : State} (v : Level) (e : Effect) (h : SameTransfer s u) :
    SameTransfer (applyEffect v s e) (e.transfer.elim u (applyEffect v u)) := by
  obtain ⟨hpins, htr, hack, hsh, hrxd, hrxv⟩ := h
  cases e with
  | clearShift => exact ⟨hpins, htr, hack, rfl, hrxd, hrxv⟩
  | shiftSample => exact ⟨hpins, htr, hack, congrArg (shiftIn · (bitOf v)) hsh, hrxd, hrxv⟩
  | presentByte => exact ⟨hpins, htr, hack, hsh, hsh, rfl⟩
  | enter o => exact ⟨hpins, htr, hack, hsh, hrxd, hrxv⟩
  | sampleAck c =>
    cases c with
    | none => exact ⟨hpins, htr, rfl, hsh, hrxd, hrxv⟩
    | some c => cases v <;> exact ⟨hpins, htr, rfl, hsh, hrxd, hrxv⟩

theorem applyEffects_transfer {s u : State} (v : Level) (es : List Effect) (h : SameTransfer s u) :
    SameTransfer (es.foldl (applyEffect v) s) ((es.filterMap Effect.transfer).foldl (applyEffect v) u) := by
  induction es generalizing s u with
  | nil => exact h
  | cons e es ih =>
    have hstep := ih (applyEffect_transfer v e h)
    rw [List.filterMap_cons]
    cases htransfer : e.transfer with
    | none => simpa [htransfer] using hstep
    | some e' => simpa [htransfer] using hstep

theorem microOp_transfer {s u : State} (v : Level) (m : MicroOp) (h : SameTransfer s u) :
    SameTransfer (microOp v m s) (microOp v m u) := by
  obtain ⟨hpins, htr, hrest⟩ := h
  refine ⟨by rw [microOp_pins, microOp_pins, hpins], by rw [microOp_tr, microOp_tr, htr], ?_⟩
  cases m <;> exact hrest

theorem stepped_transfer {s u : State} (m : MicroStep) (h : SameTransfer s u) (hlevel : sdaIn s = sdaIn u) :
    SameTransfer (stepped m s) (stepped m.transfer u) := by
  rw [stepped, stepped, ← hlevel]
  exact applyEffects_transfer _ _ (microOp_transfer _ _ h)

theorem sameTransfer_complete {t u : State} (p q : Prop) [Decidable p] [Decidable q] (h : SameTransfer t u) :
    SameTransfer (if p then complete t else t) (if q then complete u else u) := by
  split <;> split <;> exact h

/-- A command that is made of stages does in the stage from offset `n` what the stage's command does. -/
theorem exec_stage {i j : Instr} {s u : State} {n : Nat} {stages : List (Nat × Instr)}
    (hstaged : Staged j s.res stages) (hmem : (n, i) ∈ stages) (hn : n ≤ s.upc)
    (h : exec i { s with upc := s.upc - n } = .next u) :
    ∃ t, exec j s = .next t ∧ SameTransfer t u := by
  obtain ⟨m, hm, hread, rfl⟩ := exec_next.mp h
  obtain ⟨a, rfl, ha⟩ := stageRoutines_getElem? hstaged.consecutive hmem hm
  rw [Nat.zero_add] at hn
  rw [Nat.zero_add, Nat.add_sub_cancel' hn, ← hstaged.routine, transfers, List.getElem?_map,
    Option.map_eq_some_iff] at ha
  obtain ⟨m', hm', rfl⟩ := ha
  exact ⟨_, exec_next.mpr ⟨m', hm', hread, rfl⟩,
    sameTransfer_complete _ _ (stepped_transfer m' ⟨rfl, rfl, rfl, rfl, rfl, rfl⟩ rfl)⟩

/-- Settles O19: WRREG and RDREG are their stages one after another (`wrreg_staged`, `rdreg_staged`), so
`exec_stage`. -/
theorem compositeStagesArePrimitiveCommands : Obligations.CompositeStagesArePrimitiveCommands := by
  intro sa ra d s u n i hn h
  exact ⟨fun hmem => exec_stage (wrreg_staged sa ra d s.res) hmem hn h,
    fun hmem => exec_stage (rdreg_staged sa ra s.res) hmem hn h⟩

/-! ## The attached writes of one step -/

theorem le_of_mem_effectsFrom {r : Routine} {n k : Nat} {e : Effect} (h : (k, e) ∈ effectsFrom n r) : n ≤ k := by
  obtain ⟨j, -, rfl, -⟩ := exists_of_mem_effectsFrom h
  exact Nat.le_add_right n j

theorem effectsFrom_filter {r : Routine} {n k : Nat} {m : MicroStep} (hm : r[k]? = some m) :
    ((effectsFrom n r).filter (·.1 = n + k)).map (·.2) = m.effects := by
  induction r generalizing n k with
  | nil => cases hm
  | cons m' r ih =>
    rw [effectsFrom, List.filter_append, List.map_append]
    cases k with
    | zero =>
      obtain rfl : m' = m := by simpa using hm
      have hlater : (effectsFrom (n + 1) r).filter (·.1 = n) = [] :=
        List.filter_eq_nil_iff.mpr fun w hw => by simpa using Nat.ne_of_gt (le_of_mem_effectsFrom hw)
      simp [hlater, List.filter_map, Function.comp_def]
    | succ k =>
      have hthere := ih (n := n + 1) (k := k) hm
      rw [Nat.add_right_comm, Nat.add_assoc] at hthere
      simp [hthere, List.filter_map, Function.comp_def]

/-- The attached writes of micro-operation number `k`. -/
def effectsAt (i : Instr) (res : ResultCode) (k : Nat) : List Effect :=
  ((effectsOf i res).filter (·.1 = k)).map (·.2)

theorem effects_eq_effectsAt {i : Instr} {res : ResultCode} {k : Nat} {m : MicroStep}
    (hm : (routineOf i res)[k]? = some m) : m.effects = effectsAt i res k := by
  rw [effectsAt, ← routineOf_effects, ← effectsFrom_filter (n := 0) hm, Nat.zero_add]

section
variable {i : Instr} {s t : State}

/-- What the step's attached writes make of the state. -/
def effected (i : Instr) (s : State) : State := (effectsAt i s.res s.upc).foldl (applyEffect (sdaIn s)) s

theorem stepped_eq_moved (m : MicroStep) (s : State) :
    stepped m s = moved (s.pins.after m.op) (s.tr ++ [eventOf (sdaIn s) m.op]) (s.upc + 1) s.envSda
      (m.effects.foldl (applyEffect (sdaIn s)) s) := by
  have hop : microOp (sdaIn s) m.op s = _ := microOp_holdSda (sdaIn s) s.envSda m.op s
  rw [stepped, hop, List.foldl_hom (moved _ _ _ _) fun u e => applyEffect_moved _ _ _ _ _ u e]

/-- A step leaves the shift register, the byte, `ACKF` and `RES` as its attached writes make them. -/
theorem exec_effected (h : exec i s = .next t) :
    t.sh = (effected i s).sh ∧ t.rxd = (effected i s).rxd ∧ t.rxv = (effected i s).rxv ∧
      t.ackf = (effected i s).ackf ∧ t.res = (effected i s).res := by
  obtain ⟨m, hm, -, rfl⟩ := exec_next.mp h
  rw [stepped_eq_moved, effects_eq_effectsAt hm]
  split <;> exact ⟨rfl, rfl, rfl, rfl, rfl⟩

theorem exec_below (h : exec i s = .next t) : s.upc < lengthOf i s.res := by
  obtain ⟨m, hm, -, -⟩ := exec_next.mp h
  rw [← routineOf_length]
  exact (List.getElem?_eq_some_iff.mp hm).1

/-- A step with a write that takes a level read the data line, which showed what the environment holds (R67). -/
theorem exec_reads {e : Effect} (h : exec i s = .next t) (he : (s.upc, e) ∈ effectsOf i s.res) (hlevel : e.takesLevel) :
    sdaIn s = s.envSda ∧ t.tr = s.tr ++ [.RD s.envSda] := by
  have hin : s.sdaDir = .IN := by
    cases hdir : s.sdaDir with
    | IN => rfl
    | OUT => cases h.symm.trans (exec_refused_of_takesLevel hdir he hlevel)
  have hsda := sdaIn_of_in hin
  rw [← routineOf_effects] at he
  obtain ⟨j, m, hj, hm, hmem⟩ := exists_of_mem_effectsFrom he
  rw [Nat.zero_add] at hj
  subst hj
  have hop : m.op = .readDataLine := routineOf_levelsAtReads i s.res m (List.mem_of_getElem? hm) e hmem hlevel
  obtain ⟨m', hm', -, rfl⟩ := exec_next.mp h
  obtain rfl : m = m' := Option.some.inj (hm.symm.trans hm')
  have htr : (stepped m s).tr = s.tr ++ [.RD s.envSda] := by rw [stepped_tr, hop, hsda]; rfl
  exact ⟨hsda, by split <;> exact htr⟩

/-- The samples that raise a code stand alone at their offsets (R84 (c)). -/
theorem effectsAt_raising {i : Instr} {res c : ResultCode} {k : Nat} (hc : (k, c) ∈ raisingSamples i)
    (hk : k < lengthOf i res) : effectsAt i res k = [.sampleAck (some c)] := by
  cases i <;> simp only [raisingSamples, List.not_mem_nil, List.mem_cons, Prod.mk.injEq, or_false] at hc
  all_goals
    obtain ⟨rfl, rfl⟩ | ⟨rfl, rfl⟩ | ⟨rfl, rfl⟩ := hc <;> cases res <;> simp [lengthOf] at hk <;> rfl

theorem mem_effectsOf_of_effectsAt {res : ResultCode} {k : Nat} {e : Effect} (h : e ∈ effectsAt i res k) :
    (k, e) ∈ effectsOf i res := by
  obtain ⟨⟨k', e'⟩, hw, rfl⟩ := List.mem_map.mp h
  obtain ⟨hmem, hk⟩ := List.mem_filter.mp hw
  rwa [← of_decide_eq_true hk]

theorem sample_listed {res c : ResultCode} {k : Nat} (hc : (k, c) ∈ raisingSamples i) (hk : k < lengthOf i res) :
    (k, Effect.sampleAck (some c)) ∈ effectsOf i res :=
  mem_effectsOf_of_effectsAt (by rw [effectsAt_raising hc hk]; exact List.mem_singleton_self _)

/-- R84 (c), R96: an acknowledge sample of a composite command sets `ACKF`, and a high one raises its code. -/
theorem exec_sample {c : ResultCode} (h : exec i s = .next t) (hc : (s.upc, c) ∈ raisingSamples i) :
    t.ackf = ackOf s.envSda ∧ t.res = if s.envSda = .H then c else s.res := by
  have hat := effectsAt_raising hc (exec_below h)
  obtain ⟨hlevel, -⟩ := exec_reads h (sample_listed hc (exec_below h)) (.inr ⟨_, rfl⟩)
  obtain ⟨-, -, -, hack, hres⟩ := exec_effected h
  rw [hack, hres, effected, hat, hlevel, ackOf_eq]
  cases s.envSda <;> exact ⟨rfl, rfl⟩

/-- R77: a data sample shifts its level into `SH`. -/
theorem exec_shifts (h : exec i s = .next t) (hat : effectsAt i s.res s.upc = [.shiftSample]) :
    t.sh = shifted s.sh s.envSda := by
  obtain ⟨hlevel, -⟩ := exec_reads h (mem_effectsOf_of_effectsAt (hat ▸ List.mem_singleton_self _)) (.inl rfl)
  obtain ⟨hsh, -⟩ := exec_effected h
  rw [hsh, effected, hat, hlevel, shifted_eq]
  rfl

/-- A command below its path's end answers a next state, if its reads find the direction IN. -/
theorem exec_answers {ks : List Nat} (hbelow : s.upc < (routineOf i s.res).length)
    (hreads : (ops (routineOf i s.res)).findIdxs (· = .readDataLine) = ks) (hin : s.upc ∈ ks → s.sdaDir = .IN) :
    ∃ t, exec i s = .next t := by
  have hm : (ops (routineOf i s.res))[s.upc]? = some (routineOf i s.res)[s.upc].op := by
    rw [ops_getElem?, List.getElem?_eq_getElem hbelow]
    rfl
  obtain ⟨t, h, -⟩ := exec_performs hm fun hop => hin <| by
    obtain ⟨hlt, hget⟩ := List.getElem?_eq_some_iff.mp hm
    rw [← hreads, List.mem_findIdxs_iff_exists_getElem_pos]
    exact ⟨hlt, decide_eq_true (hget.trans hop)⟩
  exact ⟨t, h⟩

end

/-! ## WRREG and RDREG, micro-operation by micro-operation -/

/-! Where the reads of the stages stand, counted from `n`. -/

theorem startRoutine_reads_from (n : Nat) : (ops startRoutine).findIdxs (· = .readDataLine) n = [] := rfl
theorem stopRoutine_reads_from (n : Nat) : (ops stopRoutine).findIdxs (· = .readDataLine) n = [] := rfl
theorem transmitByte_reads_from (n : Nat) (c : Option ResultCode) (x : Byte) :
    (ops (transmitByte c x)).findIdxs (· = .readDataLine) n = [n + 53] := rfl
theorem receiveByte_reads_from (n : Nat) (p : AckFlag) :
    (ops (receiveByte p)).findIdxs (· = .readDataLine) n =
      [n + 5, n + 13, n + 21, n + 29, n + 37, n + 45, n + 53, n + 61] := rfl

theorem ops_length (r : Routine) : (ops r).length = r.length := List.length_map _

theorem wrreg_readOffsets (sa ra d : Byte) (res : ResultCode) :
    (ops (routineOf (.wrreg sa ra d) res)).findIdxs (· = .readDataLine) = wrregReads res := by
  cases res <;>
    simp [routineOf, wrregRoutine, openingToRegister, opening, closing, addressByte, wrregReads, List.findIdxs_append,
      ops_length, startRoutine_reads_from, stopRoutine_reads_from, transmitByte_reads_from]

theorem rdreg_readOffsets (sa ra : Byte) (res : ResultCode) :
    (ops (routineOf (.rdreg sa ra) res)).findIdxs (· = .readDataLine) = rdregReads res := by
  cases res <;>
    simp [routineOf, rdregRoutine, openingToReaddress, openingToRegister, opening, closing, addressByte, rdregReads,
      rdregDataReads, List.findIdxs_append, ops_length, startRoutine_reads_from, stopRoutine_reads_from,
      transmitByte_reads_from, receiveByte_reads_from]

/-- R85: WRREG writes neither `SH` nor the received byte. -/
theorem wrreg_receives_nothing (sa ra d : Byte) (res : ResultCode) (k : Nat) :
    (k, Effect.clearShift) ∉ effectsOf (.wrreg sa ra d) res ∧ (k, Effect.shiftSample) ∉ effectsOf (.wrreg sa ra d) res ∧
      (k, Effect.presentByte) ∉ effectsOf (.wrreg sa ra d) res := by
  cases res <;> simp [effectsOf]

/-- R85: the reads of WRREG are its samples, each with a code. -/
theorem wrregReads_raise (sa ra d : Byte) {res : ResultCode} {k : Nat} (h : k ∈ wrregReads res) :
    ∃ c, (k, c) ∈ raisingSamples (.wrreg sa ra d) := by
  revert k
  cases res <;> simp [wrregReads, raisingSamples]

theorem wrreg_sample_is_read {sa ra d : Byte} {res : ResultCode} {k : Nat} {c : Option ResultCode}
    (h : (k, Effect.sampleAck c) ∈ effectsOf (.wrreg sa ra d) res) : k ∈ wrregReads res := by
  cases res <;> simp [effectsOf] at h <;> simp [wrregReads] <;> omega

/-- Settles O17: below the path's end a step answers (`exec_answers`), at a sample it is `exec_sample`, elsewhere no
write stands that could change the registers. -/
theorem wrregStepAnswersNext : Obligations.WrregStepAnswersNext := by
  intro sa ra d s hbelow hin
  obtain ⟨t, h⟩ := exec_answers (by rwa [wrreg_length]) (wrreg_readOffsets sa ra d s.res) hin
  obtain ⟨e, htr⟩ := exec_tr h
  obtain ⟨hclear, hshift, hpresent⟩ := wrreg_receives_nothing sa ra d s.res s.upc
  obtain ⟨hrxd, hrxv⟩ := exec_keeps_byte h hpresent
  refine ⟨t, e, h, exec_upc h, htr, exec_outsideKept h, exec_keeps_sh h hclear hshift, hrxd, hrxv,
    by simpa only [wrreg_length] using exec_completesAt h, fun hread => ?_, fun hread => ?_,
    fun hupc => (exec_sample h (by simp [raisingSamples, hupc])).2,
    fun hupc => (exec_sample h (by simp [raisingSamples, hupc])).2,
    fun hupc => (exec_sample h (by simp [raisingSamples, hupc])).2⟩
  · obtain ⟨c, hc⟩ := wrregReads_raise sa ra d hread
    obtain ⟨e', he', hlevel⟩ := wrregReads_take_level sa ra d hread
    have hevent := htr.symm.trans (exec_reads h he' hlevel).2
    exact ⟨by simpa using hevent, (exec_sample h hc).1⟩
  · exact (exec_ack h).resolve_right fun ⟨c, hc, _⟩ => hread (wrreg_sample_is_read hc)

/-- R86: the acknowledge samples of RDREG, each with a code. -/
theorem rdreg_samples_raise (sa ra : Byte) {k : Nat} (h : k ∈ [61, 118, 183]) :
    ∃ c, (k, c) ∈ raisingSamples (.rdreg sa ra) := by
  revert k
  simp [raisingSamples]

theorem rdreg_sample_offset {sa ra : Byte} {res : ResultCode} {k : Nat} {c : Option ResultCode}
    (h : (k, Effect.sampleAck c) ∈ effectsOf (.rdreg sa ra) res) : k ∈ [61, 118, 183] := by
  cases res <;> simp [effectsOf] at h ⊢ <;> omega

/-- R86: the path of success, the only one with a `ReceiveByte`, begins it at offset 187. -/
theorem rdreg_receives {res : ResultCode} (sa ra : Byte) (h : rdregLength res = 268) :
    effectsAt (.rdreg sa ra) res 187 = [.clearShift] ∧
      (∀ k ∈ rdregDataReads, effectsAt (.rdreg sa ra) res k = [.shiftSample]) ∧
      effectsAt (.rdreg sa ra) res 259 = [.presentByte, .enter .DATA_RECEIVED] := by
  have hpath : effectsOf (.rdreg sa ra) res = effectsOf (.rdreg sa ra) .OK := by
    cases res <;> simp [rdregLength] at h <;> rfl
  unfold effectsAt
  rw [hpath]
  exact ⟨rfl, by simp [rdregDataReads, effectsOf], rfl⟩

/-- R86: `SH` is cleared and shifted in that `ReceiveByte` alone. -/
theorem rdreg_shift_offsets {sa ra : Byte} {res : ResultCode} {k : Nat} {e : Effect}
    (h : (k, e) ∈ effectsOf (.rdreg sa ra) res) (he : e = .clearShift ∨ e = .shiftSample) :
    k ∈ 187 :: rdregDataReads ∧ rdregLength res = 268 := by
  obtain rfl | rfl := he <;> cases res <;> simp [effectsOf] at h <;> simp [rdregDataReads, rdregLength] <;> omega

theorem rdreg_present_offset {sa ra : Byte} {res : ResultCode} {k : Nat}
    (h : (k, Effect.presentByte) ∈ effectsOf (.rdreg sa ra) res) : k = 259 := by
  cases res <;> simp [effectsOf] at h <;> exact h

theorem rdregLength_of_long {res : ResultCode} (h : 195 < rdregLength res) : rdregLength res = 268 := by
  cases res <;> simp [rdregLength] at h ⊢

/-- Settles O18: as `wrregStepAnswersNext`, and the writes of the data byte stand at the offsets of `rdreg_receives` and
at no other (`rdreg_shift_offsets`, `rdreg_present_offset`). -/
theorem rdregStepAnswersNext : Obligations.RdregStepAnswersNext := by
  intro sa ra s hbelow hin
  obtain ⟨t, h⟩ := exec_answers (by rwa [rdreg_length]) (rdreg_readOffsets sa ra s.res) hin
  obtain ⟨e, htr⟩ := exec_tr h
  obtain ⟨hsh, hrxd, hrxv, -⟩ := exec_effected h
  refine ⟨t, e, h, exec_upc h, htr, exec_outsideKept h, by simpa only [rdreg_length] using exec_completesAt h,
    fun hread => ?_, fun hupc => ?_, fun hupc => ?_,
    fun hupc => (exec_sample h (by simp [raisingSamples, hupc])).2,
    fun hupc => (exec_sample h (by simp [raisingSamples, hupc])).2,
    fun hupc => (exec_sample h (by simp [raisingSamples, hupc])).2, fun hupc hlong => ?_, fun hupc hlong => ?_,
    fun hother => ?_, fun hupc => ?_, fun hupc => exec_keeps_byte h fun he => hupc (rdreg_present_offset he)⟩
  · obtain ⟨e', he', hlevel⟩ := rdregReads_take_level sa ra hread
    have hevent := htr.symm.trans (exec_reads h he' hlevel).2
    simpa using hevent
  · obtain ⟨c, hc⟩ := rdreg_samples_raise sa ra hupc
    exact (exec_sample h hc).1
  · exact (exec_ack h).resolve_right fun ⟨c, hc, _⟩ => hupc (rdreg_sample_offset hc)
  · rw [hsh, effected, hupc, (rdreg_receives sa ra hlong).1]
    rfl
  · exact exec_shifts h ((rdreg_receives sa ra hlong).2.1 _ hupc)
  · have hnone {e : Effect} (he : e = .clearShift ∨ e = .shiftSample) :
        (s.upc, e) ∉ effectsOf (.rdreg sa ra) s.res := by
      intro hmem
      obtain ⟨hk, hlong⟩ := rdreg_shift_offsets hmem he
      exact hother.elim (absurd hk) (absurd hlong)
    exact exec_keeps_sh h (hnone (.inl rfl)) (hnone (.inr rfl))
  · have hlong := rdregLength_of_long (res := s.res) (by omega)
    rw [hrxd, hrxv, effected, hupc, (rdreg_receives sa ra hlong).2.2]
    exact ⟨rfl, rfl⟩

/-! ## The path that the samples select (R84, R96)

On the path of a code the sample of that code is the last and finds a high level, the samples before it a low one. -/

section
variable {i : Instr} {c : ResultCode} {s t : State} {ls : List Level}

theorem raisingSamples_below {k : Nat} (h : (k, c) ∈ raisingSamples i) : k + 1 < lengthOf i .OK := by
  cases i <;> simp [raisingSamples] at h <;> simp [lengthOf] <;> omega

theorem raisingSamples_offset {k k' : Nat} (h : (k, c) ∈ raisingSamples i) (h' : (k', c) ∈ raisingSamples i) :
    k = k' := by
  cases i <;> simp [raisingSamples] at h h' <;> grind

theorem raisingSamples_ne_ok {k : Nat} : (k, ResultCode.OK) ∉ raisingSamples i := by
  cases i <;> simp [raisingSamples]

/-- Before micro-operation `n` of the path of code `c`: the code is in `RES`, or its sample is still to come. -/
def OnPath (i : Instr) (c : ResultCode) (n : Nat) (res : ResultCode) : Prop :=
  (res = c ∧ ∀ k, n ≤ k → (k, c) ∉ raisingSamples i) ∨ (res = .OK ∧ ∃ k, n ≤ k ∧ (k, c) ∈ raisingSamples i)

/-- The levels, held from micro-operation `n` on, are at the samples those of the path of code `c`. -/
def SelectsPath (i : Instr) (c : ResultCode) (n : Nat) (ls : List Level) : Prop :=
  ∀ j c' l, (n + j, c') ∈ raisingSamples i → LevelAt ls j l → l = if c' = c then .H else .L

theorem OnPath.start (h : c = .OK ∨ ∃ k, (k, c) ∈ raisingSamples i) : OnPath i c 0 .OK := by
  obtain rfl | ⟨k, hk⟩ := h
  · exact .inl ⟨rfl, fun _ _ => raisingSamples_ne_ok⟩
  · exact .inr ⟨rfl, k, Nat.zero_le k, hk⟩

/-- The micro-operation is the one on the path of `c`, and is the last of the selected path where it is the last of
that one. -/
theorem OnPath.routine {n : Nat} {res : ResultCode} (h : OnPath i c n res) :
    (routineOf i res)[n]? = (routineOf i c)[n]? ∧
      (n + 1 = (routineOf i res).length ↔ n + 1 = (routineOf i c).length) := by
  obtain ⟨rfl, -⟩ | ⟨rfl, k, hn, hk⟩ := h
  · exact ⟨rfl, Iff.rfl⟩
  · have hmoreOk := raisingSamples_below hk
    obtain ⟨htake, hmore⟩ := paths_agree (sample_listed hk (Nat.lt_of_succ_lt hmoreOk))
    have hget := congrArg (·[n]?) htake
    simp only [List.getElem?_take_of_lt (Nat.lt_succ_of_le hn)] at hget
    rw [← routineOf_length] at hmoreOk
    exact ⟨hget.symm, by omega⟩

/-- On the path of `c` a step performs that path's micro-operation, if it is no read with direction OUT. -/
theorem OnPath.performs {m : MicroStep} (l : Level) (h : OnPath i c s.upc s.res) (hm : (routineOf i c)[s.upc]? = some m)
    (hread : m.op = .readDataLine → s.sdaDir = .IN) :
    exec i (holdSda l s) = .next (if s.upc + 1 = (routineOf i c).length then complete (stepped m (holdSda l s))
      else stepped m (holdSda l s)) := by
  obtain ⟨hget, hlast⟩ := h.routine
  simp only [← hlast]
  exact exec_of_step (s := holdSda l s) rfl (hget.trans hm) hread

/-- `RES` stays in a step of a command, or the step is the sample of the code then in `RES`. -/
theorem exec_res (h : exec i s = .next t) : t.res = s.res ∨ (s.upc, t.res) ∈ raisingSamples i := by
  obtain ⟨m, hm, -, rfl⟩ := exec_next.mp h
  have hres : (stepped m s).res = s.res ∨ (s.upc, (stepped m s).res) ∈ raisingSamples i :=
    (stepped_res m s).imp_right fun he => (raising_sample (effect_listed hm he)).1
  split <;> exact hres

/-- A step goes on along the path: a high level raises `c` at its own sample, a low one raises nothing at the others. -/
theorem OnPath.step {l : Level} (hpath : OnPath i c s.upc s.res) (h : exec i (holdSda l s) = .next t)
    (hlevel : ∀ c', (s.upc, c') ∈ raisingSamples i → l = if c' = c then .H else .L) : OnPath i c t.upc t.res := by
  rw [exec_upc h, holdSda_upc]
  by_cases hc : (s.upc, c) ∈ raisingSamples i
  · have hhigh : l = .H := by simpa using hlevel c hc
    have hres : t.res = c := by simpa [hhigh] using (exec_sample h hc).2
    exact .inl ⟨hres, fun k hk hk' => absurd (raisingSamples_offset hk' hc) (by omega)⟩
  · have hres : t.res = s.res := by
      refine (exec_res h).elim id fun hraised => ?_
      have hlow : l = .L := by
        rw [hlevel _ hraised, if_neg]
        rintro rfl
        exact hc hraised
      simpa [hlow] using (exec_sample h hraised).2
    rw [hres]
    refine hpath.imp (fun ⟨hs, hk⟩ => ⟨hs, fun k hn => hk k (by omega)⟩) fun ⟨hs, k, hn, hk⟩ => ⟨hs, k, ?_, hk⟩
    exact lt_of_le_of_ne hn fun heq => hc (heq ▸ hk)

/-- The rest of a command on the path of code `c`: by induction on the rest of that path's routine. -/
theorem execRun_rest_of_path {rest : Routine} (hpath : OnPath i c s.upc s.res)
    (hrest : (routineOf i c).drop s.upc = rest) (hmore : rest ≠ []) (hlength : ls.length = rest.length)
    (hreads : readsIn s.sdaDir (ops rest) = true) (hlevels : SelectsPath i c s.upc ls) :
    execRun i ls s = .next (complete (performed rest ls s)) := by
  induction rest generalizing ls s with
  | nil => exact absurd rfl hmore
  | cons m rest ih =>
    cases ls with
    | nil => cases hlength
    | cons l ls =>
      have hm : (routineOf i c)[s.upc]? = some m := by rw [← List.head?_drop, hrest]; rfl
      have hnext : (routineOf i c).drop (s.upc + 1) = rest := by rw [← List.tail_drop, hrest]; rfl
      obtain ⟨hread, hreads⟩ := readsIn_cons.mp hreads
      have hexec := hpath.performs l hm hread
      have hleft : (routineOf i c).length - (s.upc + 1) = rest.length := by rw [← List.length_drop, hnext]
      have hbelow : s.upc < (routineOf i c).length := (List.getElem?_eq_some_iff.mp hm).1
      refine execRun_cons.mpr ⟨_, hexec, ?_⟩
      cases rest with
      | nil =>
        obtain rfl := List.length_eq_zero_iff.mp (Nat.succ.inj hlength)
        rw [List.length_nil] at hleft
        rw [if_pos (by omega)]
        rfl
      | cons m' rest =>
        rw [List.length_cons] at hleft
        rw [if_neg (by omega)] at hexec ⊢
        have hpath := hpath.step hexec fun c' hc' => hlevels 0 c' l hc' rfl
        refine ih hpath (by rwa [stepped_upc]) (List.cons_ne_nil _ _) (Nat.succ.inj hlength)
          (by rwa [stepped_sdaDir]) ?_
        intro j c' l' hc' hl'
        rw [stepped_upc, holdSda_upc, Nat.add_right_comm] at hc'
        exact hlevels (j + 1) c' l' hc' hl'

/-- The levels take the command, from acceptance to its end, along the path of code `c`. -/
structure TakesPath (i : Instr) (c : ResultCode) (ls : List Level) : Prop where
  code : c = .OK ∨ ∃ k, (k, c) ∈ raisingSamples i
  length : ls.length = lengthOf i c
  levels : ∀ w ∈ raisingSamples i, w.1 < ls.length → LevelAt ls w.1 (if w.2 = c then .H else .L)

theorem TakesPath.selects (h : TakesPath i c ls) : SelectsPath i c 0 ls := by
  intro j c' l hc' hl
  rw [Nat.zero_add] at hc'
  have hlevel := h.levels _ hc' (List.getElem?_eq_some_iff.mp hl).1
  exact Option.some.inj (hl.symm.trans hlevel)

/-- A whole command on the path of code `c`, from acceptance: the pins, the events and the count follow from that path's
micro-operations, the rest from its attached writes. -/
theorem execRun_of_path (htakes : TakesPath i c ls) (hupc : s.upc = 0) (hres : s.res = .OK) :
    execRun i ls s = .next (complete (moved (pinsAfter (routineOf i c) s.pins)
      (s.tr ++ eventsOf (ops (routineOf i c)) ls) (lengthOf i c) (ls.getLastD s.envSda) (written (fun k => ls.getD k .H) (effectsOf i c) s))) := by
  have hroutine : ls.length = (routineOf i c).length := by rw [htakes.length, routineOf_length]
  have hmore : routineOf i c ≠ [] := List.ne_nil_of_length_pos (by rw [routineOf_length]; exact lengthOf_pos i c)
  have hpath : OnPath i c s.upc s.res := by rw [hupc, hres]; exact .start htakes.code
  rw [execRun_rest_of_path hpath (by rw [hupc, List.drop_zero]) hmore hroutine (routineOf_readsIn i c _)
      (by rw [hupc]; exact htakes.selects),
    performed_eq (fun k => ls.getD k .H) 0 hroutine (routineOf_readsIn i c _) (routineOf_levelsAtReads i c)
      (fun k l hk => by simp [hk]), hupc, Nat.zero_add, routineOf_effects, routineOf_length]

end

/-! ## The events of the stages -/

theorem eventsOf_append (ms ms' : List MicroOp) (ls : List Level) :
    eventsOf (ms ++ ms') ls = eventsOf ms (ls.take ms.length) ++ eventsOf ms' (ls.drop ms.length) := by
  induction ms generalizing ls with
  | nil => rfl
  | cons m ms ih =>
    cases ls with
    | nil => simp [eventsOf]
    | cons l ls => exact congrArg (eventOf l m :: ·) (ih ls)

/-- The levels held during a stage. -/
def stageLevels (res : ResultCode) (ls : List Level) (st : Nat × Instr) : List Level :=
  (ls.drop st.1).take (lengthOf st.2 res)

/-- The events of a stage. -/
def stageEvents (res : ResultCode) (ls : List Level) (st : Nat × Instr) : List Event :=
  eventsOf (ops (routineOf st.2 res)) (stageLevels res ls st)

theorem stageRoutines_events {res : ResultCode} {stages : List (Nat × Instr)} {n : Nat} (ls : List Level)
    (h : Consecutive res n stages) :
    eventsOf (ops (stageRoutines res stages)) (ls.drop n) = (stages.map (stageEvents res ls)).flatten := by
  induction stages generalizing n with
  | nil => rfl
  | cons st stages ih =>
    obtain ⟨rfl, h⟩ := h
    rw [stageRoutines, List.flatMap_cons, ← stageRoutines, ops_append, eventsOf_append, ops_length, routineOf_length,
      List.drop_drop, ih h]
    rfl

section
variable {res : ResultCode} {ls : List Level} {n : Nat}

theorem stageLevels_length {i : Instr} (hend : n + lengthOf i res ≤ ls.length) :
    (stageLevels res ls (n, i)).length = lengthOf i res := by
  rw [stageLevels, List.length_take, List.length_drop]
  exact Nat.min_eq_left (Nat.le_sub_of_add_le' hend)

theorem stageEvents_start (hend : n + 8 ≤ ls.length) : stageEvents res ls (n, .start) = startTrace :=
  startRoutine_events (stageLevels_length hend)

theorem stageEvents_stop (hend : n + 8 ≤ ls.length) : stageEvents res ls (n, .stop) = stopTrace :=
  stopRoutine_events (stageLevels_length hend)

/-- R75: the one level that counts for a transmitted byte is that of its acknowledge sample. -/
theorem stageEvents_sends {i : Instr} {x : Byte} (hsends : Sends i x) (hend : n + 57 ≤ ls.length) :
    stageEvents res ls (n, i) = txTrace x (ls.getD (n + 53) .H) := by
  have hlength : lengthOf i res = 57 := by rw [← routineOf_length, routineOf_sends hsends, transmitByte_length]
  rw [stageEvents, routineOf_sends hsends]
  refine transmitByte_events x ((stageLevels_length (by rwa [hlength])).trans hlength) ?_
  rw [LevelAt, stageLevels, hlength, List.getElem?_take_of_lt (by decide), List.getElem?_drop,
    List.getD_eq_getElem?_getD, List.getElem?_eq_getElem (by omega)]
  rfl

theorem stageEvents_txbyte (x : Byte) (hend : n + 57 ≤ ls.length) :
    stageEvents res ls (n, .txbyte x) = txTrace x (ls.getD (n + 53) .H) :=
  stageEvents_sends (.inl rfl) hend

theorem stageEvents_writeAddress (sa : Byte) (hend : n + 57 ≤ ls.length) :
    stageEvents res ls (n, .addr sa .write) = writeAddress sa (ls.getD (n + 53) .H) :=
  stageEvents_sends (.inr ⟨sa, .write, rfl, rfl⟩) hend

theorem stageEvents_readAddress (sa : Byte) (hend : n + 57 ≤ ls.length) :
    stageEvents res ls (n, .addr sa .read) = readAddress sa (ls.getD (n + 53) .H) :=
  stageEvents_sends (.inr ⟨sa, .read, rfl, rfl⟩) hend

theorem stageEvents_rxbyte (p : AckFlag) (hend : n + 73 ≤ ls.length) :
    stageEvents res ls (n, .rxbyte p) = rxTrace (receivedFrom n ls) p := by
  rw [stageEvents, routineOf_rxbyte, receiveByte_events p (stageLevels_length hend)]
  simp [receivedFrom, stageLevels, lengthOf]

end

/-! ## Whole runs of WRREG and RDREG (R85, R86) -/

theorem levelAt_getD {ls : List Level} {k : Nat} {l : Level} (h : LevelAt ls k l) : ls.getD k .H = l := by
  rw [List.getD_eq_getElem?_getD, h]
  rfl

/-! ### What the attached writes of a path make of the state -/

theorem applyEffect_sample (v : Level) (s : State) (c : ResultCode) :
    applyEffect v s (.sampleAck (some c)) = { s with ackf := ackOf v, res := if v = .H then c else s.res } := by
  cases v <;> rfl

theorem applyEffect_enter (v : Level) (s : State) (o : OrchState) : applyEffect v s (.enter o) = { s with ost := o } :=
  rfl

section
variable {f : Nat → Level} (s : State)

/-- R84 (c), R96: on the path of a code its sample leaves the NACK and the code. -/
theorem written_nack {i : Instr} {c : ResultCode} {k : Nat} (hc : (k, c) ∈ raisingSamples i) (hhigh : f k = .H) :
    written f (effectsOf i c) s = { s with ackf := .NACK, res := c, ost := .STOPPED } := by
  cases i <;> simp only [raisingSamples, List.not_mem_nil, List.mem_cons, Prod.mk.injEq, or_false] at hc
  all_goals
    obtain ⟨rfl, rfl⟩ | ⟨rfl, rfl⟩ | ⟨rfl, rfl⟩ := hc <;>
      simp [written, effectsOf, applyEffect_sample, applyEffect_enter, ackOf, hhigh]

/-- R85: acknowledged throughout, WRREG leaves its last acknowledge. -/
theorem written_wrreg (sa ra d : Byte) (hres : s.res = .OK) (h61 : f 61 = .L) (h118 : f 118 = .L)
    (h175 : f 175 = .L) :
    written f (effectsOf (.wrreg sa ra d) .OK) s = { s with ackf := .ACK, res := .OK, ost := .STOPPED } := by
  simp [written, effectsOf, applyEffect_sample, applyEffect_enter, ackOf, hres, h61, h118, h175]

/-- R86: acknowledged throughout, RDREG presents the byte of its data samples. -/
theorem written_rdreg_eq (sa ra : Byte) (h61 : f 61 = .L) (h118 : f 118 = .L) (h183 : f 183 = .L) :
    written f (effectsOf (.rdreg sa ra) .OK) s =
      { s with ackf := .ACK, sh := receivedByte f 187, rxd := receivedByte f 187, rxv := true, ost := .STOPPED } := by
  simp [written, effectsOf, applyEffect, writeAckf, ackOfLevel, receivedByte, h61, h118, h183]

end

/-! ### The runs of staged commands -/

section
variable {i : Instr} {c : ResultCode} {stages : List (Nat × Instr)} {events : List (List Event)} {s : State}
  {ls : List Level}

/-- A whole command made of stages: the events of its stages, the pins idle-high, and what its attached writes make of
the other registers. -/
theorem execRun_staged {u : State} (hstaged : Staged i c stages) (htakes : TakesPath i c ls) (hupc : s.upc = 0)
    (hres : s.res = .OK) (hevents : stages.map (stageEvents c ls) = events)
    (hwritten : written (fun k => ls.getD k .H) (effectsOf i c) s = u) :
    execRun i ls s = .next (complete
      (moved ⟨.H, .H, .OUT⟩ (s.tr ++ events.flatten) (lengthOf i c) (ls.getLastD s.envSda) u)) := by
  have htr : eventsOf (ops (routineOf i c)) ls = events.flatten := by
    rw [← ops_transfers, hstaged.routine, ← hevents]
    exact stageRoutines_events ls hstaged.consecutive
  rw [execRun_of_path htakes hupc hres, hstaged.pins, htr, hwritten]

/-- A whole command on the path of a code that is raised: its NACK and its code are what it leaves. -/
theorem execRun_nack {k : Nat} (hstaged : Staged i c stages) (hc : (k, c) ∈ raisingSamples i)
    (hlength : ls.length = lengthOf i c)
    (hlevels : ∀ w ∈ raisingSamples i, w.1 < ls.length → LevelAt ls w.1 (if w.2 = c then .H else .L))
    (hupc : s.upc = 0) (hres : s.res = .OK) (hevents : stages.map (stageEvents c ls) = events) :
    execRun i ls s =
      .next { ended s .H .H .OUT (lengthOf i c) events ls with ackf := .NACK, res := c } := by
  obtain ⟨-, hmore⟩ := paths_agree (sample_listed hc (Nat.lt_of_succ_lt (raisingSamples_below hc)))
  rw [routineOf_length, ← hlength] at hmore
  have hhigh : LevelAt ls k .H := by simpa using hlevels (k, c) hc (Nat.lt_of_succ_lt hmore)
  rw [execRun_staged hstaged ⟨.inr ⟨k, hc⟩, hlength, hlevels⟩ hupc hres hevents
    (written_nack s hc (levelAt_getD hhigh))]
  rfl

end

/-! ### What a path appends to the trace

WRREG has the stages of RDREG on the paths that end at the address or the register address. -/

section
variable {ls : List Level} (sa ra d : Byte)

theorem nackAddress_events (hlength : ls.length = 73) (h61 : LevelAt ls 61 .H) :
    (rdregStages sa ra .NACK_ADDRESS).map (stageEvents .NACK_ADDRESS ls) =
      [startTrace, writeAddress sa .H, stopTrace] := by
  simp (disch := omega) only [rdregStages, List.map_cons, List.map_nil, stageEvents_start, stageEvents_writeAddress,
    stageEvents_stop, Nat.reduceAdd, levelAt_getD h61]

theorem nackRegister_events (hlength : ls.length = 130) (h61 : LevelAt ls 61 .L) (h118 : LevelAt ls 118 .H) :
    (rdregStages sa ra .NACK_REGISTER).map (stageEvents .NACK_REGISTER ls) =
      [startTrace, writeAddress sa .L, txTrace ra .H, stopTrace] := by
  simp (disch := omega) only [rdregStages, List.map_cons, List.map_nil, stageEvents_start, stageEvents_writeAddress,
    stageEvents_txbyte, stageEvents_stop, Nat.reduceAdd, levelAt_getD h61, levelAt_getD h118]

theorem nackReaddress_events (hlength : ls.length = 195) (h61 : LevelAt ls 61 .L) (h118 : LevelAt ls 118 .L)
    (h183 : LevelAt ls 183 .H) :
    (rdregStages sa ra .NACK_READDRESS).map (stageEvents .NACK_READDRESS ls) =
      [startTrace, writeAddress sa .L, txTrace ra .L, startTrace, readAddress sa .H, stopTrace] := by
  simp (disch := omega) only [rdregStages, List.map_cons, List.map_nil, stageEvents_start, stageEvents_writeAddress,
    stageEvents_txbyte, stageEvents_readAddress, stageEvents_stop, Nat.reduceAdd, levelAt_getD h61, levelAt_getD h118,
    levelAt_getD h183]

/-- R85: whether the data byte is acknowledged or not, `res` being the path of either. -/
theorem wrreg_events {a : Level} (res : ResultCode) (hlength : ls.length = 187) (h61 : LevelAt ls 61 .L)
    (h118 : LevelAt ls 118 .L) (h175 : LevelAt ls 175 a) :
    (wrregStages sa ra d .OK).map (stageEvents res ls) =
      [startTrace, writeAddress sa .L, txTrace ra .L, txTrace d a, stopTrace] := by
  simp (disch := omega) only [wrregStages, List.map_cons, List.map_nil, stageEvents_start, stageEvents_writeAddress,
    stageEvents_txbyte, stageEvents_stop, Nat.reduceAdd, levelAt_getD h61, levelAt_getD h118, levelAt_getD h175]

theorem rdreg_events (hlength : ls.length = 268) (h61 : LevelAt ls 61 .L) (h118 : LevelAt ls 118 .L)
    (h183 : LevelAt ls 183 .L) :
    (rdregStages sa ra .OK).map (stageEvents .OK ls) =
      [startTrace, writeAddress sa .L, txTrace ra .L, startTrace, readAddress sa .L,
        rxTrace (receivedFrom 187 ls) .NACK, stopTrace] := by
  simp (disch := omega) only [rdregStages, List.map_cons, List.map_nil, stageEvents_start, stageEvents_writeAddress,
    stageEvents_txbyte, stageEvents_readAddress, stageEvents_rxbyte, stageEvents_stop, Nat.reduceAdd, levelAt_getD h61,
    levelAt_getD h118, levelAt_getD h183]

end

/-! ### The runs -/

/-- Settles O25: each path by its stages' events; where a sample is high by `execRun_nack`, the data byte's NACK on the
path that has every stage. -/
theorem wrregRuns : Obligations.WrregRuns := by
  intro sa ra d s ls hupc hres
  refine ⟨fun a hlength h61 h118 h175 => ?_, fun hlength h61 h118 => ?_, fun hlength h61 => ?_⟩
  · cases a with
    | L =>
      rw [execRun_staged (wrreg_staged sa ra d .OK) ⟨.inl rfl, hlength, by simp [raisingSamples, *]⟩ hupc hres
        (wrreg_events sa ra d .OK hlength h61 h118 h175)
        (written_wrreg s sa ra d hres (levelAt_getD h61) (levelAt_getD h118) (levelAt_getD h175))]
      rfl
    | H =>
      exact execRun_nack (k := 175) (wrreg_staged sa ra d .NACK_DATA) (by simp [raisingSamples]) hlength
        (by simp [raisingSamples, *]) hupc hres (wrreg_events sa ra d .NACK_DATA hlength h61 h118 h175)
  · exact execRun_nack (k := 118) (wrreg_staged sa ra d .NACK_REGISTER) (by simp [raisingSamples]) hlength
      (by simp [raisingSamples, *]) hupc hres (nackRegister_events sa ra hlength h61 h118)
  · exact execRun_nack (k := 61) (wrreg_staged sa ra d .NACK_ADDRESS) (by simp [raisingSamples]) hlength
      (by simp [raisingSamples, *]) hupc hres (nackAddress_events sa ra hlength h61)

/-- Settles O26: each path by its stages' events; where a sample is high by `execRun_nack`, and only the writes of the
success path present a byte (`written_rdreg_eq`). -/
theorem rdregRuns : Obligations.RdregRuns := by
  intro sa ra s ls hupc hres
  refine ⟨fun hlength h61 h118 h183 => ?_, fun hlength h61 h118 h183 => ?_, fun hlength h61 h118 => ?_,
    fun hlength h61 => ?_⟩
  · rw [execRun_staged (rdreg_staged sa ra .OK) ⟨.inl rfl, hlength, by simp [raisingSamples, *]⟩ hupc hres
      (rdreg_events sa ra hlength h61 h118 h183)
      (written_rdreg_eq s sa ra (levelAt_getD h61) (levelAt_getD h118) (levelAt_getD h183)), receivedByte_eq_byteOf]
    rfl
  · exact execRun_nack (k := 183) (rdreg_staged sa ra .NACK_READDRESS) (by simp [raisingSamples]) hlength
      (by simp [raisingSamples, *]) hupc hres (nackReaddress_events sa ra hlength h61 h118 h183)
  · exact execRun_nack (k := 118) (rdreg_staged sa ra .NACK_REGISTER) (by simp [raisingSamples]) hlength
      (by simp [raisingSamples, *]) hupc hres (nackRegister_events sa ra hlength h61 h118)
  · exact execRun_nack (k := 61) (rdreg_staged sa ra .NACK_ADDRESS) (by simp [raisingSamples]) hlength
      (by simp [raisingSamples, *]) hupc hres (nackAddress_events sa ra hlength h61)

end Sys2Proof.Machine
end

/-! # Exceptions

The statements of 60_exceptions.md on the host's writes: an illegal command completes in the step of the write (R95),
and a word dropped while a command runs leaves `REJ` as its only trace (R98). -/

section
namespace Sys2Proof.Machine

/-! ## An illegal command (R95) -/

/-- Settles O30: the word is accepted (`accept_illegal`) and leaves `BUSY` at 0, so the next write is accepted too. -/
theorem illegalCommandCompletesAtOnce : Obligations.IllegalCommandCompletesAtOnce := by
  intro w w' s hidle hreserved
  have hcompleted : hostWrite 0 w s = completeIllegal (latchCommand w s) := by
    rw [hostWrite_of_idle hidle, accept_illegal (legalOpcode_of_outside hreserved)]
  rw [hcompleted]
  constructor
  · simp [completeIllegal, latchCommand, hidle]
  · rw [hostWrite_of_idle (by simp [hidle]), accept_cmdr]

/-! ## Only reset clears `REJ` (R98) -/

@[simp] theorem freeEnvironment_rej (s : State) : (freeEnvironment s).rej = s.rej := rfl

@[simp] theorem accept_rej (w : Word) (s : State) : (accept w s).rej = s.rej := by rw [accept_frame]

/-- The sequencer never writes `REJ`. -/
theorem sequencerTurn_rej {s t : State} (h : sequencerTurn s = .next t) : t.rej = s.rej := by
  obtain ⟨-, rfl⟩ | ⟨-, -, i, u, -, hexec, rfl⟩ := sequencerTurn_next h
  · rfl
  · obtain ⟨-, hrej, -⟩ := exec_outsideKept hexec
    rw [observe_rej, hrej]

theorem hostWrite_keeps_rej (n : Nat) (w : Word) {s : State} (hrej : s.rej = true) : (hostWrite n w s).rej = true := by
  obtain ⟨-, hw⟩ | ⟨-, -, hw⟩ | ⟨-, -, hw⟩ := hostWrite_cases n w s <;> simp [hw, hrej]

/-- `REJ` once set stays set over every agent's turn but the assertion of reset. -/
theorem turn_keeps_rej {a : Turn} {s t : State} (h : turn a s = .next t) (hrej : s.rej = true)
    (hreset : a ≠ .assertReset) : t.rej = true := by
  cases a with
  | sequencer => rw [sequencerTurn_rej h, hrej]
  | hostWrite n w =>
    cases h
    unfold hostWriteTurn
    split
    · exact hrej
    · exact hostWrite_keeps_rej n w hrej
  | hostRead n =>
    cases h
    unfold hostReadTurn
    split <;> exact hrej
  | envSda l | envScl l | releaseReset => cases h; exact hrej
  | assertReset => exact absurd rfl hreset

/-- The machine's steps keep `REJ` as its turns do; the free environment does not write it. -/
theorem step_keeps_rej {s t : State} (h : step s = .next t) (hrej : s.rej = true)
    (hreset : ∀ rest, s.agenda ≠ .assertReset :: rest) : t.rej = true := by
  cases hagenda : s.agenda with
  | nil =>
    rw [step_unscheduled hagenda] at h
    rw [sequencerTurn_rej h, freeEnvironment_rej, hrej]
  | cons a rest =>
    rw [step_scheduled hagenda] at h
    exact turn_keeps_rej h hrej fun ha => hreset rest (ha ▸ hagenda)

/-! ## A dropped write does not disturb the running command (R98) -/

/-- A micro-operation does the same beside a set `REJ`: it neither reads `REJ` nor writes it (`exec_withOutside`). -/
theorem exec_rejectBusy {i : Instr} {s t : State} (h : exec i s = .next t) :
    exec i (rejectBusy s) = .next (rejectBusy t) := by
  obtain ⟨hcmdr, -, hrst, hscl, -, hagenda, hreads, hwave, hdraws⟩ := exec_outsideKept h
  have := exec_withOutside (rejectBusy s) h
  simpa [withOutside, rejectBusy, ← hcmdr, ← hrst, ← hscl, ← hagenda, ← hreads, ← hwave, ← hdraws] using this

/-- The observer does not look at `REJ`. -/
theorem observe_rejectBusy (s : State) : observe (rejectBusy s) = rejectBusy (observe s) := rfl

/-- The sequencer takes the same turn beside a set `REJ`, and leaves it set. -/
theorem sequencerTurn_rejectBusy {s t : State} (h : sequencerTurn s = .next t) :
    sequencerTurn (rejectBusy s) = .next (rejectBusy t) := by
  obtain ⟨hnone, rfl⟩ | ⟨hrst, hbusy, i, u, hdecode, hexec, rfl⟩ := sequencerTurn_next h
  · obtain hrst | hidle := hnone
    · exact sequencerTurn_inReset hrst
    · exact sequencerTurn_idle hidle
  · rw [← observe_rejectBusy]
    exact sequencerTurn_runs hrst hbusy hdecode (exec_rejectBusy hexec)

/-- Settles O34: a busy port only sets `REJ` (`hostWrite_of_busy`), no step but reset clears it (`step_keeps_rej`), and
the sequencer does beside it what it does without (`sequencerTurn_rejectBusy`). -/
theorem rejectedWriteIsStickyAndHarmless : Obligations.RejectedWriteIsStickyAndHarmless := by
  refine ⟨fun w s hbusy => hostWrite_of_busy hbusy w, fun s t hstep hrej hreset => step_keeps_rej hstep hrej hreset,
    fun n w s t hbusy hrst hturn => ?_⟩
  have hwriteTurn : hostWriteTurn n w s = hostWrite n w s := by simp [hostWriteTurn, hrst]
  rw [hwriteTurn]
  obtain ⟨-, hw⟩ | ⟨-, -, hw⟩ | ⟨-, hidle, -⟩ := hostWrite_cases n w s
  · exact ⟨t, by rw [hw, hturn], rfl⟩
  · exact ⟨rejectBusy t, by rw [hw, sequencerTurn_rejectBusy hturn], rfl⟩
  · simp [hbusy] at hidle

end Sys2Proof.Machine
end

/-! # Reset and hazards

The statements of 70_reset_and_hazards.md: reset (R108) and the sums of delay counts (R124). -/

section
namespace Sys2Proof.Machine

open Sys2Proof.Expected

/-! ## Reset (R108) -/

/-- Asserting `rst` gives every element of the block its reset value, from every state. -/
theorem assertResetTurn_atReset (s : State) : AtReset (assertResetTurn s) :=
  (Inv.of_assertResetTurn s).in_reset rfl

/-- Releasing `rst` writes no element of the block. -/
theorem releaseResetTurn_atReset {s : State} (h : AtReset s) : AtReset (releaseResetTurn s) := h

/-- Settles O36: the assertion resets from every state, under `rst` no agent of the block moves, the invariant has the
block at reset until the release, and `BUSY` falls elsewhere only at a last micro-operation (O45). -/
theorem resetTakesEffectInOneStep : Obligations.ResetTakesEffectInOneStep := by
  refine ⟨fun s rest hagenda => ?_, fun s hrst => ?_, fun s t hinv hrst hturn => ?_,
    fun s t hstep hs ht hnoReset => ?_⟩
  · exact ⟨_, step_scheduled hagenda, assertResetTurn_atReset _, rfl⟩
  · exact ⟨sequencerTurn_inReset hrst, turn_hostWrite_of_reset hrst, turn_hostRead_of_reset hrst, rfl⟩
  · cases hturn
    exact ⟨releaseResetTurn_atReset (hinv.in_reset hrst), rfl⟩
  · obtain ⟨rest, hreset⟩ | ⟨i, hdecode, hlast, -⟩ := busyFallsOnlyAtCompletionOrReset s t hstep hs ht
    · exact absurd hreset (hnoReset rest)
    · exact ⟨i, hdecode, hlast⟩

/-! ## The sums of delay counts (R124) -/

namespace DelaySum

/-- R124: `P`, the delays of one bit. -/
def bit (cfg : BusConfiguration) : Nat := cfg.tLow + cfg.tHigh

/-- R124: `A`, the delays of one ack phase. -/
def ack (cfg : BusConfiguration) : Nat := cfg.tAckLow1 + cfg.tAckHigh1 + cfg.tAckHigh2 + cfg.tAckLow2

/-- R124: the delays of a byte with its acknowledge, sent or received. -/
def byte (cfg : BusConfiguration) : Nat := 8 * bit cfg + ack cfg

/-- R124: the delays of `Start()`. -/
def start (cfg : BusConfiguration) : Nat := cfg.tBuf + cfg.tSuSta + cfg.tHdSta

/-- R124: the delays of `Stop()`. -/
def stop (cfg : BusConfiguration) : Nat := cfg.tLow + cfg.tSuSto + cfg.tBuf

end DelaySum

section
variable {cfg : BusConfiguration}

theorem delayTotal_flatMap {α : Type} {f : α → Routine} {n : Nat} (hf : ∀ a, delayTotal cfg (f a) = n) (l : List α) :
    delayTotal cfg (l.flatMap f) = l.length * n := by
  induction l with
  | nil => simp [delayTotal]
  | cons a l ih => rw [List.flatMap_cons, delayTotal_append, hf, ih, List.length_cons, Nat.succ_mul, Nat.add_comm]

@[simp] theorem transmitBit_delayTotal (b : Bool) : delayTotal cfg (transmitBit b) = DelaySum.bit cfg := by
  simp [delayTotal, transmitBit, BusConfiguration.count, DelaySum.bit]

@[simp] theorem sampleAckPhase_delayTotal (c : Option ResultCode) :
    delayTotal cfg (sampleAckPhase c) = DelaySum.ack cfg := by
  simp [delayTotal, sampleAckPhase, BusConfiguration.count, DelaySum.ack, Nat.add_assoc]

@[simp] theorem driveAckPhase_delayTotal (p : AckFlag) : delayTotal cfg (driveAckPhase p) = DelaySum.ack cfg := by
  simp [delayTotal, driveAckPhase, BusConfiguration.count, DelaySum.ack, Nat.add_assoc]

@[simp] theorem startRoutine_delayTotal : delayTotal cfg startRoutine = DelaySum.start cfg := by
  simp [delayTotal, startRoutine, BusConfiguration.count, DelaySum.start, Nat.add_assoc]

@[simp] theorem stopRoutine_delayTotal : delayTotal cfg stopRoutine = DelaySum.stop cfg := by
  simp [delayTotal, stopRoutine, BusConfiguration.count, DelaySum.stop, Nat.add_assoc]

@[simp] theorem transmitByte_delayTotal (c : Option ResultCode) (x : Byte) :
    delayTotal cfg (transmitByte c x) = DelaySum.byte cfg := by
  rw [transmitByte, delayTotal_append, delayTotal_flatMap fun i => transmitBit_delayTotal (x.getLsbD i),
    sampleAckPhase_delayTotal]
  rfl

/-- `T_SETTLE` and `T_HIGH_REM` make up `T_HIGH`, where the first does not exceed it (R7). -/
theorem receiveBit_delayTotal (hsettle : cfg.tSettle ≤ cfg.tHigh) : delayTotal cfg receiveBit = DelaySum.bit cfg := by
  simp [delayTotal, receiveBit, BusConfiguration.count, DelaySum.bit, Nat.add_sub_cancel' hsettle]

theorem receiveByte_delayTotal (hsettle : cfg.tSettle ≤ cfg.tHigh) (p : AckFlag) :
    delayTotal cfg (receiveByte p) = DelaySum.byte cfg := by
  rw [receiveByte, delayTotal_append, delayTotal_withFirst, delayTotal_flatMap fun _ => receiveBit_delayTotal hsettle,
    driveAckPhase_delayTotal]
  rfl

/-! The paths of WRREG and RDREG are their stages one after another (R85, R86). -/

@[simp] theorem closing_delayTotal : delayTotal cfg closing = DelaySum.stop cfg := by
  simp [closing]

@[simp] theorem opening_delayTotal (sa : Byte) :
    delayTotal cfg (opening sa) = DelaySum.start cfg + DelaySum.byte cfg := by
  simp [opening, addressByte]

@[simp] theorem openingToRegister_delayTotal (sa ra : Byte) :
    delayTotal cfg (openingToRegister sa ra) = DelaySum.start cfg + 2 * DelaySum.byte cfg := by
  simp [openingToRegister, Nat.add_assoc, Nat.two_mul]

@[simp] theorem openingToReaddress_delayTotal (sa ra : Byte) :
    delayTotal cfg (openingToReaddress sa ra) = 2 * DelaySum.start cfg + 3 * DelaySum.byte cfg := by
  simp only [openingToReaddress, addressByte, delayTotal_append, delayTotal_withLast, openingToRegister_delayTotal,
    startRoutine_delayTotal, transmitByte_delayTotal]
  omega

theorem wrregRoutine_ok_delayTotal (sa ra d : Byte) :
    delayTotal cfg (wrregRoutine sa ra d .OK) = DelaySum.start cfg + 3 * DelaySum.byte cfg + DelaySum.stop cfg := by
  simp only [wrregRoutine, delayTotal_append, delayTotal_withLast, openingToRegister_delayTotal,
    transmitByte_delayTotal, closing_delayTotal]
  omega

theorem wrregRoutine_nackAddress_delayTotal (sa ra d : Byte) :
    delayTotal cfg (wrregRoutine sa ra d .NACK_ADDRESS) =
      DelaySum.start cfg + DelaySum.byte cfg + DelaySum.stop cfg := by
  simp [wrregRoutine]

theorem wrregRoutine_nackRegister_delayTotal (sa ra d : Byte) :
    delayTotal cfg (wrregRoutine sa ra d .NACK_REGISTER) =
      DelaySum.start cfg + 2 * DelaySum.byte cfg + DelaySum.stop cfg := by
  simp [wrregRoutine]

theorem rdregRoutine_ok_delayTotal (hsettle : cfg.tSettle ≤ cfg.tHigh) (sa ra : Byte) :
    delayTotal cfg (rdregRoutine sa ra .OK) =
      2 * DelaySum.start cfg + 4 * DelaySum.byte cfg + DelaySum.stop cfg := by
  simp only [rdregRoutine, delayTotal_append, delayTotal_withLast, openingToReaddress_delayTotal,
    receiveByte_delayTotal hsettle, closing_delayTotal]
  omega

theorem rdregRoutine_nackReaddress_delayTotal (sa ra : Byte) :
    delayTotal cfg (rdregRoutine sa ra .NACK_READDRESS) =
      2 * DelaySum.start cfg + 3 * DelaySum.byte cfg + DelaySum.stop cfg := by
  simp [rdregRoutine]

end

/-- Settles O60: the table's rows, each the sum of its routine's stages. -/
theorem delaySums : Obligations.DelaySums := by
  intro cfg x sa ra d p dir b hsettle
  exact ⟨transmitBit_delayTotal b, receiveBit_delayTotal hsettle, transmitByte_delayTotal none x,
    transmitByte_delayTotal none (addrByte sa dir), receiveByte_delayTotal hsettle p, startRoutine_delayTotal,
    stopRoutine_delayTotal, wrregRoutine_ok_delayTotal sa ra d, wrregRoutine_nackAddress_delayTotal sa ra d,
    wrregRoutine_nackRegister_delayTotal sa ra d, rdregRoutine_ok_delayTotal hsettle sa ra,
    rdregRoutine_nackReaddress_delayTotal sa ra⟩

end Sys2Proof.Machine
end

/-! # Words of the spec

The encoding vectors of 95_test_vectors.md section 3. -/

section
namespace Sys2Proof

/-- Settles O5: a vector with a legal opcode is in its command's row (`decode_of_reads`), and the others have a reserved
opcode (`decode_error_of_reserved`). -/
theorem specWordsDecode : Obligations.SpecWordsDecode := by
  refine ⟨decode_of_reads ?start, decode_of_reads ?stop, decode_of_reads ?txbyte, decode_of_reads ?rxbyteNack,
    decode_of_reads ?rxbyteAck, decode_of_reads ?addr, decode_of_reads ?wrreg, decode_of_reads ?rdreg,
    decode_error_of_reserved ?zero, decode_error_of_reserved ?eight, decode_error_of_reserved ?last⟩
  case start | stop => rfl
  case txbyte | rxbyteNack | rxbyteAck => exact ⟨rfl, rfl⟩
  case addr | rdreg => exact ⟨rfl, rfl, rfl⟩
  case wrreg => exact ⟨rfl, rfl, rfl, rfl⟩
  case zero | eight | last => decide

/-! ## Words of the opcode table -/

/-- A word the decoder reads a command from has a legal opcode (R56). -/
theorem legalOpcode_of_decode {w : Word} {i : Instr} (h : decode w = .ok i) : legalOpcode (fieldOpc w) = true := by
  by_contra hreserved
  rw [decode_error_of_reserved (by simpa using hreserved)] at h
  cases h

theorem decodeTableWord_some {nbits w : Nat} {i : Instr} (h : decodeTableWord nbits w = some i) :
    decode (tableWord nbits w) = .ok i := by
  unfold decodeTableWord at h
  split at h
  · split at h
    · next hdecode => rw [hdecode, Option.some.inj h]
    · cases h
  · cases h

/-- A command's word is as wide as a table word, so none of its bits is cut off. -/
theorem tableWord_full (w : Nat) : tableWord 32 w = BitVec.ofNat 32 w :=
  BitVec.eq_of_toNat_eq (by simp [tableWord])

end Sys2Proof
end

/-! # Where runs stop, begin and begin again

A command past its last micro-operation (R24), a command placed for the very next step (R40), and reset: the state
after it, and what it leaves to the agents outside the block (R36, R108). -/

section
namespace Sys2Proof.Machine

/-- Settles O21: `exec` faults exactly where `UPC` is not below the path's length (`exec_fault`). -/
theorem pastLastMicroOperationStops : Obligations.PastLastMicroOperationStops := by
  intro s
  have stops {i : Instr} (h : (routineOf i s.res).length ≤ s.upc) : exec i s = .fault .noMicroOperation :=
    exec_fault.mpr ⟨rfl, h⟩
  refine ⟨fun h => ⟨stops h, stops h⟩, fun h x sa dir => ⟨stops h, stops h⟩, fun h p => stops h,
    fun h sa ra d => stops ?_, fun h sa ra => stops ?_⟩
  · rwa [wrreg_length]
  · rwa [rdreg_length]

/-! ## A command placed for the next step (R40, log 15) -/

/-- A placed word of a command is accepted, and the sequencer is to move next. -/
theorem placeCommand_legal {w : Word} (h : legalOpcode (fieldOpc w) = true) (s : State) :
    placeCommand w s =
      { latchCommand w s with rst := false, busy := true, agenda := .sequencer :: s.agenda } := by
  simp only [placeCommand, accept_legal h]
  rfl

/-- Settles O40: the word is accepted (`placeCommand_legal`), and the scheduled turn runs its command
(`sequencerTurn_runs`). -/
theorem placedWordRunsNext : Obligations.PlacedWordRunsNext := by
  intro s t w i htable hexec
  have hdecode : decode (BitVec.ofNat 32 w) = .ok i := tableWord_full w ▸ decodeTableWord_some htable
  rw [State.withFetchWord, tableWord_full, placeCommand_legal (legalOpcode_of_decode hdecode),
    step_scheduled (rest := s.agenda) rfl]
  exact sequencerTurn_runs rfl rfl hdecode hexec

/-! ## Reset (R36, R108) -/

/-- Settles O52: `State.reset` is the state that asserting and releasing `rst` leaves, the one meets the invariant from
every state and the other keeps it. -/
theorem resetMeetsInvariant : Obligations.ResetMeetsInvariant :=
  (Inv.of_assertResetTurn State.reset).keeps_undisturbed
    (Undisturbed.of_releaseResetTurn (assertResetTurn State.reset) [])

/-- R36, R111: in reset the block releases both lines, so the wires show what the environment holds. -/
theorem wires_assertResetTurn (s : State) : wires (assertResetTurn s) = (s.envScl, s.envSda) := rfl

/-- Settles O37: the assertion takes over every field outside the block, and the wires at reset are the environment's
(`wires_assertResetTurn`). -/
theorem resetKeepsWhatIsOutside : Obligations.ResetKeepsWhatIsOutside := by
  intro s rest hagenda
  have hwires := wires_assertResetTurn { s with agenda := rest }
  exact ⟨assertResetTurn { s with agenda := rest }, step_scheduled hagenda, rfl, rfl, rfl, rfl, rfl, hwires,
    congrArg List.singleton hwires.symm⟩

end Sys2Proof.Machine
end
